-- ==== Sys2Proof/Word.lean ====
section
/-! DEFINITION. The words of the GZ218: bytes of the management link, beats of data, addresses, tick
counts, and the two table helpers every block uses. Chapter 11 (R185) gives the byte order, chapter 0
the widths. -/

namespace Sys2Proof

/-- One byte of a frame on the management link. -/
abbrev Byte := BitVec 8

/-- One beat of data: 8 bytes (spec/00_scope.md, "beat"). -/
abbrev Beat := BitVec 64

/-- A 40-bit address, initiator-side or translated (spec/00_scope.md, "addresses"). -/
abbrev Addr := BitVec 40

/-- A value of the 32-bit tick counter (R166). -/
abbrev TickCount := BitVec 32

/-- An initiator, I0 to I7. -/
abbrev Initiator := Fin 8

/-- A window slot's number, 0 to 63 (R1). -/
abbrev SlotIx := Fin 64

/-- A tracker entry's number, 0 to 31 (R77). -/
abbrev Tag := Fin 32

/-- A response slot's number among the 8 of R178. -/
abbrev RespIx := Fin 8

/-- Change one entry of a table. -/
def updAt {α : Type} {n : Nat} (v : Vector α n) (i : Fin n) (f : α → α) : Vector α n :=
  v.set i (f v[i])

/-- The bit of a 64-bit slot set that stands for slot `i` (R189, "bit n of the 64-bit field"). -/
def slotBit (i : SlotIx) : BitVec 64 :=
  BitVec.twoPow 64 i.val

/-- Set inclusion of two flag sets of one width. -/
def subsetBits {n : Nat} (a b : BitVec n) : Bool :=
  a &&& ~~~b == 0#n

end Sys2Proof
end

