-- ==== Sys2Proof/Syntax.lean ====
section
/-! DEFINITION. The commands of the block: one constructor of `Instr` for each row of
spec/opcode_table.json, with the operands the environment supplies (pins sampled, requests, responses,
edges on the link's wires). Where the part itself has an arbiter or an order, the command has no operand. -/

namespace Sys2Proof

/-- The kind of a request (R28). -/
inductive AccessKind
  | read
  | write
  deriving DecidableEq, Repr

/-- A handle: an index and a generation (R6). The index of a sideband handle has 6 bits. -/
structure Handle where
  index : SlotIx
  gen : Byte
  deriving DecidableEq, Repr

/-- The number of beats a length field stands for: the field encodes 1 to 16 and nothing else (R28), so
it is held as the length minus one. -/
def beatCount (len : Fin 16) : Nat :=
  len.val + 1

/-- An upstream request (R28). The lane it arrives on names its initiator. -/
structure Request where
  kind : AccessKind
  addr : Addr
  /-- length in beats, minus one -/
  len : Fin 16
  /-- as many beats as the length for a WRITE, none for a READ -/
  data : List Beat
  handle : Option Handle
  deriving DecidableEq, Repr

/-- The status of a downstream response. Any status other than OK is treated as ERROR (R105). -/
inductive DnStatus
  | ok
  | error
  | other
  deriving DecidableEq, Repr

/-- An edge on the wires of the management link (R171). At SCLK's rising edge MOSI has a level. -/
inductive SpiEdge
  | csFall
  | sclkRise (mosi : Bool)
  | sclkFall
  | csRise
  deriving DecidableEq, Repr

/-- The commands: the rows of spec/opcode_table.json, in the table's order. -/
inductive Instr
  /-- RESETN_ASSERT (R191): RESETN sampled low at a REFCLK rising edge. -/
  | resetnAssert
  /-- RESETN_RELEASE (R191): the first REFCLK edge that sees RESETN high, with BOOTEN, BOOTID2..0 and the
  level of CS (low: a session is already framed, R184) as that edge finds them. -/
  | resetnRelease (bootEn : Bool) (bootId : Initiator) (csLow : Bool)
  /-- TICK (R164): the prescale interval in progress completes. -/
  | tick
  /-- UPSTREAM_REQUEST (R29): a complete request arrives for the lane of `n`. -/
  | upstreamRequest (n : Initiator) (r : Request)
  /-- TAKE (R36): the admission arbiter chooses. -/
  | take
  /-- DOWNSTREAM_ACCEPT (R104): the downstream side takes the request offered. -/
  | downstreamAccept
  /-- DOWNSTREAM_RESPONSE (R105): a response with a tag, a status and read data arrives. -/
  | downstreamResponse (tag : Tag) (status : DnStatus) (data : List Beat)
  /-- RESPONSE_TIMEOUT (R110): the response timers that expired at the tick take effect. -/
  | responseTimeout
  /-- DELIVERY (R92): the response port arbiter chooses; bit n of `accepting` is In's channel. -/
  | delivery (accepting : BitVec 8)
  /-- STAGED_COMMIT (R66): the delivery of an initiator's last undelivered entry under STAGED or FENCING. -/
  | stagedCommit (accepting : BitVec 8)
  /-- DRAIN_TIMER_EXPIRY (R68): the drain timers that expired at the tick take effect. -/
  | drainTimerExpiry
  /-- STALL_TIMER_EXPIRY (R149): the stall timers that expired at the tick take effect. -/
  | stallTimerExpiry
  /-- SUBTREE_FREE (R146): the drain test of the list entry at `pos` (0 the oldest). -/
  | subtreeFree (pos : Fin 4)
  /-- HOLD_END (R114): the hold's 16th tick takes effect; `dnReady` is DNREADY at that moment. -/
  | holdEnd (dnReady : Bool)
  /-- PORT_READY (R114): DNREADY is high. -/
  | portReady
  /-- COMMAND_FRAME (R171, R173): the edges of a session that is no FETCH, up to the rising edge of CS that
  ends it; a part of them may come alone, and the rest in a later COMMAND_FRAME (log entry 7). -/
  | commandFrame (edges : List SpiEdge)
  /-- FETCH_SELECT (R175): the type byte of a FETCH session completes. -/
  | fetchSelect
  /-- FETCH_END (R171, R176): the edges of a FETCH session after its type byte, up to the rising edge of CS
  that ends it; a part of them may come alone, as with COMMAND_FRAME. -/
  | fetchEnd (edges : List SpiEdge)
  /-- DERIVE (R120): the table controller takes a DERIVE from the head of the command queue. -/
  | derive
  /-- SHRINK (R127). -/
  | shrink
  /-- REVOKE (R138). -/
  | revoke
  /-- BIND_DEFAULT (R62). -/
  | bindDefault
  /-- SET_INITIATOR (R58). -/
  | setInitiator
  /-- RESET_MEMORY_PORT (R112). -/
  | resetMemoryPort
  /-- SET_CONTROL (R168). -/
  | setControl
  /-- READ_WINDOW (R135). -/
  | readWindow
  /-- READ_INITIATOR (R75). -/
  | readInitiator
  /-- READ_EVENT (R159). -/
  | readEvent
  /-- READ_STATUS (R181). -/
  | readStatus
  deriving DecidableEq, Repr

end Sys2Proof
end

