-- ==== Sys2Proof/Decode.lean ====
section
/-! DEFINITION. The command a word spells by the bits of spec/opcode_table.json. The table gives no row of
this block any bits (every row's "fields" is empty), so no word spells a command. -/

namespace Sys2Proof

/-- No row of the table gives bits, so every word is refused. The command codes of a management-link
frame (chapter 11) are decoded by the link and the table controller, not here. -/
def decodeTableWord (_nbits _w : Nat) : Option Instr :=
  none

end Sys2Proof
end

