-- ==== Sys2Proof/Config.lean ====
section
/-! DEFINITION. The fixed sizes of the part (spec/00_scope.md, "at a glance") and its one free value. -/

namespace Sys2Proof.Config

/-- 2^40, the root's limit, written 0x100_0000_0000 (R4). -/
def addressLimit : Nat := 1099511627776

/-- A lane holds 4 complete requests (R29). -/
def laneDepth : Nat := 4

/-- An initiator's undelivered count stops at 8 (R53). -/
def maxUndelivered : Nat := 8

/-- No window is deeper than 5 (R12). -/
def maxDepth : Nat := 5

/-- Window bounds are multiples of 64 bytes (R13). -/
def boundGrain : Nat := 64

/-- A page for the MALFORMED check and the grain of a relocation: 4 KiB (R37, R16). -/
def page : Nat := 4096

/-- The downstream reset output is held for 16 ticks (R114). -/
def holdTicks : Nat := 16

/-- Elapsed counts saturate at 65535 ticks (R167). -/
def timerMax : Nat := 65535

/-- The revocation list holds 4 entries (R137). -/
def revocationDepth : Nat := 4

/-- The event log holds 16 records (R153). -/
def logDepth : Nat := 16

/-- Repeat and drops-after counts saturate at 255 (R153). -/
def countMax : Nat := 255

/-- The command queue holds 4 frames (R177). -/
def queueDepth : Nat := 4

/-- FREE VALUE. A bit that MISO is given, after the release of RESETN, in a session that R184 has the link
ignore to its end: the spec states no value for it (log entry 6). Argument: how many were drawn before. -/
opaque freeBit : Nat → Bool

end Sys2Proof.Config
end

