-- ==== Sys2Proof/Machine/State.lean ====
section
/-! DEFINITION. The state of the GZ218: every record, list, buffer, counter, setting, mode and pin the spec
gives the block, the queue of waiting commands, and the state after reset. A field that the spec calls
absent in some state of a record does not exist there: each record state is a constructor that carries
just the fields chapter and rule give it. -/

namespace Sys2Proof.Machine

/-- Faults. No command of this block stops the part, so there is no constructor: every row of the table
has an effect or finds its event not occurring (log entry 2). Safe: nothing is ruled out by it. -/
inductive Fault
  deriving DecidableEq, Repr

/-- Refusals. -/
inductive Refusal
  /-- Raised by `exec`'s arm of a command that has no meaning in the model; no arm raises it now. Safe. -/
  | notModelled (mnemonic : String)
  deriving DecidableEq, Repr

/-! ### Window table (chapter 1) -/

/-- A window's permissions (R14). -/
structure Perms where
  read : Bool
  write : Bool
  derive : Bool
  deriving DecidableEq, Repr

/-- The fields of a LIVE or REVOKING window (R1). -/
structure Window where
  /-- the parent's index; absent in the root (R10) -/
  parent : Option SlotIx
  /-- 0 to 5 (R12) -/
  depth : Nat
  base : Nat
  /-- first address past the window, at most 2^40 (R13) -/
  limit : Nat
  perms : Perms
  /-- bit n for In (R15) -/
  holders : BitVec 8
  /-- optional, depth-1 windows only (R16) -/
  reloc : Option Int
  /-- effective offset (R17) -/
  offset : Int
  /-- children set, bit n for slot n (R10) -/
  children : BitVec 64
  /-- in-flight count, 0 to 32 (R19) -/
  inFlight : Nat
  deriving DecidableEq, Repr

/-- What a slot holds in each of its states (R1). A REVOKING window also holds its covering revocation,
named by the index of the covering list entry's root (R24, R136). -/
inductive Occupancy
  | free
  | live (w : Window)
  | revoking (w : Window) (cover : SlotIx)
  deriving DecidableEq, Repr

/-- A slot: its generation (R7) and what it holds. Its index is its place in the table. -/
structure WindowSlot where
  gen : Byte
  occ : Occupancy
  deriving DecidableEq, Repr

/-! ### Initiator contexts (chapter 3) -/

/-- OPEN or CLOSED (R56). -/
inductive InitState
  | opened
  | closed
  deriving DecidableEq, Repr

/-- The refusal policy (R57). -/
inductive Policy
  | answer
  | quarantine
  deriving DecidableEq, Repr

/-- A staged binding: what R52 makes present exactly in STAGED and FENCING. -/
structure Pending where
  /-- the pending default: a handle, or clear -/
  target : Option Handle
  /-- the staging command's reserved response slot -/
  slot : RespIx
  /-- the drain timer's elapsed count (R68) -/
  elapsed : Nat
  /-- the drain timer expired at the last tick and its expiry has not taken effect yet (log entry 4) -/
  due : Bool
  deriving DecidableEq, Repr

/-- The rebind state with what it carries (R52). -/
inductive Rebind
  | none
  | staged (p : Pending)
  | fencing (p : Pending)
  deriving DecidableEq, Repr

/-- One initiator's context record (R52). -/
structure Context where
  state : InitState
  policy : Policy
  /-- current default -/
  current : Option Handle
  rebind : Rebind
  /-- undelivered count, 0 to 8 (R53) -/
  undelivered : Nat
  deriving DecidableEq, Repr

/-! ### Transaction tracker (chapter 4) -/

/-- What an admitted entry keeps until it is FREE (R77). The address is the initiator-side one. -/
structure Txn where
  initiator : Initiator
  window : SlotIx
  kind : AccessKind
  addr : Addr
  /-- beats, minus one -/
  len : Fin 16
  deriving DecidableEq, Repr

/-- The outcome of a DONE entry. REFUSED and TIMEOUT belong to other states of the entry (R77). -/
inductive DoneOutcome
  | okay
  | memoryError
  | portReset
  deriving DecidableEq, Repr

/-- A tracker entry, by state (R77). -/
inductive Entry
  | free
  | refused (initiator : Initiator) (kind : AccessKind) (len : Fin 16)
  | queued (x : Txn) (data : List Beat)
  /-- with its response timer: elapsed count, and whether it expired at the last tick (log entry 4) -/
  | issued (x : Txn) (elapsed : Nat) (due : Bool)
  | done (x : Txn) (outcome : DoneOutcome)
  /-- outcome TIMEOUT; `late` is the late-pending flag -/
  | expired (x : Txn) (late : Bool)
  /-- outcome TIMEOUT, late-pending set -/
  | orphaned (x : Txn)
  deriving DecidableEq, Repr

/-! ### Memory port (chapter 5) -/

/-- The port's state and, in RESETTING, its phase (R100). The downstream reset output is asserted in
HOLDING alone. -/
inductive PortState
  | ready
  | holding (count : Nat)
  | awaitingReady
  deriving DecidableEq, Repr

/-! ### Revocation engine (chapter 7) -/

/-- A stall timer; `due` as in log entry 4. -/
inductive StallTimer
  | stopped
  | running (elapsed : Nat) (due : Bool)
  deriving DecidableEq, Repr

/-- A revocation list entry (R137). -/
structure RevEntry where
  root : Handle
  /-- own response -/
  own : RespIx
  /-- absorbed responses, oldest absorbed first -/
  absorbed : List RespIx
  stall : StallTimer
  noticeGiven : Bool
  deriving DecidableEq, Repr

/-! ### Event log (chapter 8) -/

/-- The seventeen kinds (section 8.2). The first ten are the refusal kinds of chapter 2. -/
inductive EventKind
  | closed
  | malformed
  | rootNamed
  | staleHandle
  | revoking
  | notHolder
  | noDefault
  | noRead
  | noWrite
  | outOfBounds
  | memoryError
  | responseTimeout
  | lateResponse
  | strayResponse
  | fenceBegun
  | defaultCleared
  | revokeStalled
  deriving DecidableEq, Repr

/-- The descriptive fields of an event or record, each optional (R153). -/
structure Descriptor where
  initiator : Option Initiator := none
  window : Option SlotIx := none
  handle : Option Handle := none
  access : Option AccessKind := none
  addr : Option Addr := none
  len : Option (Fin 16) := none
  tag : Option Tag := none
  inFlightTotal : Option Nat := none
  deriving DecidableEq, Repr

/-- An event as its producer hands it to the log (R154); the tick is the counter's at the event. -/
structure Event where
  kind : EventKind
  desc : Descriptor
  quarantine : Bool := false
  deriving DecidableEq, Repr

/-- A record of the event log (R153). -/
structure EventRecord where
  seq : BitVec 16
  kind : EventKind
  desc : Descriptor
  firstTick : TickCount
  lastTick : TickCount
  /-- 1 to 255 -/
  repeats : Nat
  /-- drops after, 0 to 255 -/
  drops : Nat
  quarantine : Bool
  deriving DecidableEq, Repr

/-- The log: its records, oldest first, and the next sequence number (R153, R158). -/
structure EventLog where
  records : List EventRecord
  nextSeq : BitVec 16
  deriving DecidableEq, Repr

/-! ### Time base (chapter 9) -/

/-- The six settings of SET_CONTROL (R168). -/
structure Settings where
  /-- 1 to 1024 REFCLK periods -/
  prescale : Nat
  drainDeadline : Nat
  responseTimeout : Nat
  stallNotice : Nat
  alertOnEvents : Bool
  alertOnResponses : Bool
  deriving DecidableEq, Repr

/-! ### Management link (chapter 10) -/

/-- The five frame verdicts (R173). -/
inductive Verdict
  | accepted
  | queueFull
  | badCrc
  | badLength
  | unknownCommand
  deriving DecidableEq, Repr

/-- The eleven commands of a frame (section 11.2). -/
inductive CommandCode
  | derive
  | shrink
  | revoke
  | bindDefault
  | setInitiator
  | resetMemoryPort
  | setControl
  | readWindow
  | readInitiator
  | readEvent
  | readStatus
  deriving DecidableEq, Repr

/-- The outcomes a response frame can carry (section 11.3). -/
inductive CmdOutcome
  | done
  | empty
  | staleHandle
  | windowRevoking
  | noDerive
  | badBounds
  | outOfParent
  | permNotSubset
  | holdersNotSubset
  | tooDeep
  | badRelocation
  | tableFull
  | notNarrower
  | childConflict
  | defaultConflict
  | rootProtected
  | notHolder
  | badInitiator
  | badArgument
  | alreadyRevoking
  | queueFull
  | replaced
  | discarded
  | revokedByAncestor
  deriving DecidableEq, Repr

/-- An accepted frame in the command queue: code, sequence and payload (R173). -/
structure Frame where
  seq : Byte
  code : CommandCode
  payload : List Byte
  deriving DecidableEq, Repr

/-- A response frame, without its length and CRC bytes, which follow from it (R187). -/
structure ResponseFrame where
  seq : Byte
  code : CommandCode
  outcome : CmdOutcome
  payload : List Byte
  deriving DecidableEq, Repr

/-- A response slot (R178). A reserved slot keeps the sequence and code of the command that owns it. -/
inductive RespSlot
  | empty
  | reserved (seq : Byte) (code : CommandCode)
  | filled (frame : ResponseFrame)
  deriving DecidableEq, Repr

/-- The 8 response slots and their fill order, earliest filled at the head (R178). -/
structure SlotBank where
  slots : Vector RespSlot 8
  order : List RespIx
  deriving DecidableEq, Repr

/-- The type of the session in progress, with what belongs to it (section 10.1). -/
inductive SessionKind
  /-- the type byte is not complete (R171) -/
  | untyped
  /-- the type byte did not name FETCH: the complete bytes so far, the type byte first (R173) -/
  | command (bytes : List Byte)
  /-- FETCH: the selected slot (absent: the EMPTY frame) and the bytes clocked after the type byte (R175) -/
  | fetch (selected : Option RespIx) (clocked : Nat)
  /-- CS fell before the release of RESETN: served by nobody (R184) -/
  | ignored
  deriving DecidableEq, Repr

/-- A session in progress: CS is low (R171). -/
structure Session where
  kind : SessionKind
  /-- the level of SCLK -/
  sclk : Bool
  /-- MOSI's bits of the byte in progress, oldest first -/
  bits : List Bool
  /-- the byte being shifted out, as it stood when it began to shift -/
  out : Byte
  /-- the level driven onto MISO -/
  pin : Bool
  deriving DecidableEq, Repr

/-! ### What leaves the part -/

/-- The statuses of an upstream response (R93). -/
inductive RespStatus
  | okay
  | refused
  | memoryError
  | timeout
  | portReset
  deriving DecidableEq, Repr

/-- An upstream response: a status and, for a READ, data (R93). -/
structure UpResponse where
  status : RespStatus
  data : List Beat
  deriving DecidableEq, Repr

/-- A downstream request (R103). The address is the translated one. -/
structure DnRequest where
  tag : Tag
  kind : AccessKind
  addr : Addr
  len : Fin 16
  data : List Beat
  deriving DecidableEq, Repr

/-! ### The state -/

/-- Everything the spec gives the GZ218, and the model's own queue of waiting commands and output
latches. -/
structure State where
  /-- MODEL: the commands that wait, the next one first -/
  pending : List Instr
  /-- pin RESETN as last sampled at a REFCLK edge: true is high (R191) -/
  resetn : Bool
  /-- the eight lanes, head first (R29) -/
  lanes : Vector (List Request) 8
  /-- the admission arbiter's pointer (R34) -/
  admitPtr : Initiator
  /-- the window table (R1) -/
  windows : Vector WindowSlot 64
  /-- the initiator context table (R52) -/
  contexts : Vector Context 8
  /-- the transaction tracker (R77) -/
  tracker : Vector Entry 32
  /-- the read data store (R84) -/
  readStore : Vector (Vector Beat 16) 32
  /-- the delivery lists, head first (R86) -/
  deliveryLists : Vector (List Tag) 8
  /-- the response port arbiter's pointer (R89) -/
  respPtr : Initiator
  /-- the memory port's state (R100) -/
  port : PortState
  /-- the forward order, head first (R102) -/
  forward : List Tag
  /-- the list of waiting reset commands (R112) -/
  waitingResets : List RespIx
  /-- the revocation list, oldest first (R137) -/
  revocations : List RevEntry
  /-- the event log (R153) -/
  log : EventLog
  /-- REFCLK periods counted in the current interval (R164) -/
  divider : Nat
  /-- the length of the current interval (R165) -/
  interval : Nat
  /-- the tick counter (R166) -/
  tickCount : TickCount
  /-- the six settings (R168) -/
  settings : Settings
  /-- the link's session in progress; none while CS is high (R171) -/
  session : Option Session
  /-- the last verdict (R172) -/
  verdict : Verdict
  /-- the command queue, head first (R177) -/
  queue : List Frame
  /-- the response slots (R178) -/
  bank : SlotBank
  /-- MODEL: the last response handed up, and to whom -/
  upOut : Option (Initiator × UpResponse)
  /-- MODEL: the last request the downstream side took -/
  dnOut : Option DnRequest
  /-- MODEL: the bits MISO showed at SCLK's rising edges in the current or last session -/
  miso : List Bool
  /-- MODEL: how many free bits were drawn (Config.freeBit) -/
  freeDraws : Nat
  deriving DecidableEq, Repr

/-! ### Reset values -/

/-- The root window (R4). -/
def rootWindow : Window where
  parent := none
  depth := 0
  base := 0
  limit := Config.addressLimit
  perms := ⟨true, true, true⟩
  holders := 255#8
  reloc := none
  offset := 0
  children := 0#64
  inFlight := 0

/-- The window table at the release of RESETN (R3). -/
def resetWindows : Vector WindowSlot 64 :=
  (Vector.replicate 64 ⟨0#8, .free⟩).set 0 ⟨0#8, .live rootWindow⟩

/-- A context's power-on value (section 3.1). -/
def resetContext : Context where
  state := .closed
  policy := .answer
  current := none
  rebind := .none
  undelivered := 0

/-- The settings' power-on values (section 9.3, R169). -/
def powerOnSettings : Settings where
  prescale := 100
  drainDeadline := 1000
  responseTimeout := 4096
  stallNotice := 8192
  alertOnEvents := true
  alertOnResponses := true

/-- The part with RESETN held low, which is its power-on state: every block at the value its chapter
gives for reset (R3, R30, R34, R50, R54, R89, R95, R101, R137, R161, R164, R169, R184). The read data
store's contents are undefined there (R85) and are given as zeros (log entry 5). -/
def State.reset : State where
  pending := []
  resetn := false
  lanes := Vector.replicate 8 []
  admitPtr := 0
  windows := resetWindows
  contexts := Vector.replicate 8 resetContext
  tracker := Vector.replicate 32 .free
  readStore := Vector.replicate 32 (Vector.replicate 16 0#64)
  deliveryLists := Vector.replicate 8 []
  respPtr := 0
  port := .holding 0
  forward := []
  waitingResets := []
  revocations := []
  log := ⟨[], 0#16⟩
  divider := 0
  interval := 100
  tickCount := 0#32
  settings := powerOnSettings
  session := none
  verdict := .accepted
  queue := []
  bank := ⟨Vector.replicate 8 .empty, []⟩
  upOut := none
  dnOut := none
  miso := []
  freeDraws := 0

end Sys2Proof.Machine
end

