-- ==== Sys2Proof/Machine/Ops.lean ====
section
/-! DEFINITION. The named operations over the part's tables and lists that the commands' meanings share:
reading and changing one window slot, entry, context or response slot, handing events to the log, filling
response slots, the round-robin search, and the closure of the derivation tree. -/

namespace Sys2Proof.Machine

/-! ### Outcomes of an event -/

/-- While RESETN is low no event but the two of RESETN itself reaches the part (R30, R90, R154, R164, R184,
R191); otherwise the event has its effect. -/
def whenOutOfReset (s : State) (effect : State → State) : Host.Outcome State Fault Refusal :=
  .next (if s.resetn then effect s else s)

/-! ### Round robin (R34, R89) -/

/-- The first of the eight that `p` accepts, from `ptr` upward, wrapping from 7 to 0. -/
def roundRobin (ptr : Fin 8) (p : Fin 8 → Bool) : Option (Fin 8) :=
  ((List.finRange 8).map (ptr + ·)).find? p

/-! ### Window table -/

/-- The full window a LIVE or REVOKING slot holds (R1). -/
def Occupancy.window? : Occupancy → Option Window
  | .free => none
  | .live w => some w
  | .revoking w _ => some w

/-- The slot is FREE. -/
def WindowSlot.isFree (v : WindowSlot) : Bool :=
  match v.occ with
  | .free => true
  | _ => false

/-- The slot is LIVE. -/
def WindowSlot.isLive (v : WindowSlot) : Bool :=
  match v.occ with
  | .live _ => true
  | _ => false

/-- The slot is REVOKING. -/
def WindowSlot.isRevoking (v : WindowSlot) : Bool :=
  match v.occ with
  | .revoking _ _ => true
  | _ => false

/-- Change the window a slot holds; a FREE slot holds none. -/
def WindowSlot.mapWindow (f : Window → Window) (v : WindowSlot) : WindowSlot :=
  match v.occ with
  | .free => v
  | .live w => { v with occ := .live (f w) }
  | .revoking w c => { v with occ := .revoking (f w) c }

/-- The children set of a slot; empty in a FREE slot (R1). -/
def WindowSlot.children (v : WindowSlot) : BitVec 64 :=
  match v.occ.window? with
  | some w => w.children
  | none => 0#64

/-- The in-flight count of a slot; 0 in a FREE slot (R1). -/
def WindowSlot.inFlight (v : WindowSlot) : Nat :=
  match v.occ.window? with
  | some w => w.inFlight
  | none => 0

/-- Raise a window's in-flight count (R20). -/
def addInFlight (w : Window) : Window :=
  { w with inFlight := w.inFlight + 1 }

/-- Lower a window's in-flight count by `k` (R21); it never falls below 0 (R23). -/
def subInFlight (k : Nat) (w : Window) : Window :=
  { w with inFlight := w.inFlight - k }

/-- Lower the count of one window by one (R21). -/
def State.releaseWindow (s : State) (ix : SlotIx) : State :=
  { s with windows := updAt s.windows ix (WindowSlot.mapWindow (subInFlight 1)) }

/-- A handle's validity (R6): the slot is not FREE and its generation is the handle's. -/
def State.validHandle (s : State) (h : Handle) : Bool :=
  !s.windows[h.index].isFree && s.windows[h.index].gen == h.gen

/-- The lowest-numbered FREE slot among 1 to 63 (R9). -/
def State.lowestFreeSlot (s : State) : Option SlotIx :=
  (List.finRange 64).find? fun i => decide (i ≠ 0) && s.windows[i].isFree

/-- The slots of a set and the children of its members: one level down the derivation tree. -/
def growSubtree (t : Vector WindowSlot 64) (m : BitVec 64) : BitVec 64 :=
  (List.finRange 64).foldl (fun acc i => if m.getLsbD i.val then acc ||| t[i].children else acc) m

/-- Repeat `growSubtree` until nothing joins; a tree of 64 slots is closed within 64 rounds. -/
def closeSubtree (t : Vector WindowSlot 64) : Nat → BitVec 64 → BitVec 64
  | 0, m => m
  | fuel + 1, m =>
    let m' := growSubtree t m
    if m' == m then m else closeSubtree t fuel m'

/-- The subtree of a window: every window reached from it through children sets, at any depth, the
window itself included (R140). Bit n stands for slot n. -/
def subtreeOf (t : Vector WindowSlot 64) (ix : SlotIx) : BitVec 64 :=
  closeSubtree t 64 (slotBit ix)

/-- The slot is REVOKING and its covering revocation is the list entry whose root is `root` (R24). -/
def WindowSlot.coveredBy (root : SlotIx) (v : WindowSlot) : Bool :=
  match v.occ with
  | .revoking _ c => c == root
  | _ => false

/-- The slots a list entry covers (R137). -/
def coveredSlots (t : Vector WindowSlot 64) (root : SlotIx) : List SlotIx :=
  (List.finRange 64).filter fun i => t[i].coveredBy root

/-- The drain sum of the list entry with that root (R145). -/
def drainSum (t : Vector WindowSlot 64) (root : SlotIx) : Nat :=
  ((coveredSlots t root).map fun i => t[i].inFlight).sum

/-! ### Tracker -/

/-- The entry is FREE. -/
def Entry.isFree : Entry → Bool
  | .free => true
  | _ => false

/-- REFUSED, DONE and EXPIRED entries are deliverable (R88). -/
def Entry.deliverable : Entry → Bool
  | .refused _ _ _ => true
  | .done _ _ => true
  | .expired _ _ => true
  | _ => false

/-- The window whose in-flight count the entry counts in: QUEUED, ISSUED, ORPHANED, and EXPIRED with
late-pending set (R19). -/
def Entry.holds : Entry → Option SlotIx
  | .queued x _ => some x.window
  | .issued x _ _ => some x.window
  | .expired x true => some x.window
  | .orphaned x => some x.window
  | _ => none

/-- The lowest-numbered FREE tag (R78). -/
def State.lowestFreeTag (s : State) : Option Tag :=
  (List.finRange 32).find? fun t => s.tracker[t].isFree

/-- Change one tracker entry. -/
def State.setEntry (s : State) (t : Tag) (e : Entry) : State :=
  { s with tracker := s.tracker.set t e }

/-- How many entries count in the in-flight count of a window (R19). -/
def heldBy (tr : Vector Entry 32) (ix : SlotIx) : Nat :=
  (List.finRange 32).countP fun t => tr[t].holds == some ix

/-! ### Event log -/

/-- An event coalesces into a record of the same kind, initiator and window index (R156). -/
def EventRecord.matchesEvent (r : EventRecord) (e : Event) : Bool :=
  r.kind == e.kind && r.desc.initiator == e.desc.initiator && r.desc.window == e.desc.window

/-- Coalescing (R156). -/
def EventRecord.coalesce (r : EventRecord) (tick : TickCount) (e : Event) : EventRecord :=
  { r with
    repeats := min Config.countMax (r.repeats + 1)
    lastTick := tick
    quarantine := r.quarantine || e.quarantine }

/-- One more event lost while this record is the newest (R157). -/
def EventRecord.countDrop (r : EventRecord) : EventRecord :=
  { r with drops := min Config.countMax (r.drops + 1) }

/-- The record an event starts (R155). -/
def newRecord (seq : BitVec 16) (tick : TickCount) (e : Event) : EventRecord where
  seq := seq
  kind := e.kind
  desc := e.desc
  firstTick := tick
  lastTick := tick
  repeats := 1
  drops := 0
  quarantine := e.quarantine

/-- Whether the event coalesces into the newest record (R156). -/
def EventLog.coalesces (l : EventLog) (e : Event) : Bool :=
  match l.records.getLast? with
  | some r => r.matchesEvent e
  | none => false

/-- Change the newest record. -/
def EventLog.updNewest (l : EventLog) (f : EventRecord → EventRecord) : EventLog :=
  match l.records.getLast? with
  | some r => { l with records := l.records.dropLast ++ [f r] }
  | none => l

/-- An event handed to the log coalesces, starts a record, or is lost (R154 to R157). -/
def EventLog.hand (l : EventLog) (tick : TickCount) (e : Event) : EventLog :=
  if l.coalesces e then l.updNewest fun r => r.coalesce tick e
  else if l.records.length < Config.logDepth then
    { records := l.records ++ [newRecord l.nextSeq tick e], nextSeq := l.nextSeq + 1#16 }
  else l.updNewest EventRecord.countDrop

/-- Hand the log a step's events in their order (R154). -/
def State.logAll (s : State) (es : List Event) : State :=
  { s with log := es.foldl (fun l e => l.hand s.tickCount e) s.log }

/-! ### Response slots -/

/-- An order to fill a reserved slot. -/
structure Fill where
  slot : RespIx
  outcome : CmdOutcome
  payload : List Byte := []

/-- Fill a reserved slot: the frame carries the sequence and code of the command that reserved it, and the
slot joins the tail of the fill order (R178, R187). -/
def SlotBank.fill (b : SlotBank) (f : Fill) : SlotBank :=
  match b.slots[f.slot] with
  | .reserved seq code =>
    { slots := b.slots.set f.slot (.filled ⟨seq, code, f.outcome, f.payload⟩), order := b.order ++ [f.slot] }
  | _ => b

/-- Fill several slots in one step, in the filler's order (R178). -/
def State.fillAll (s : State) (fs : List Fill) : State :=
  { s with bank := fs.foldl SlotBank.fill s.bank }

/-- The slot is empty. -/
def RespSlot.isEmpty : RespSlot → Bool
  | .empty => true
  | _ => false

/-- The slot is reserved. -/
def RespSlot.isReserved : RespSlot → Bool
  | .reserved _ _ => true
  | _ => false

/-- The slot is filled. -/
def RespSlot.isFilled : RespSlot → Bool
  | .filled _ => true
  | _ => false

/-- The lowest-numbered empty slot (R179). -/
def SlotBank.lowestEmpty (b : SlotBank) : Option RespIx :=
  (List.finRange 8).find? fun k => b.slots[k].isEmpty

/-- Reserve a slot for a command (R179). -/
def SlotBank.reserve (b : SlotBank) (k : RespIx) (f : Frame) : SlotBank :=
  { b with slots := b.slots.set k (.reserved f.seq f.code) }

/-! ### The table controller's take (R179) -/

/-- A take of a command with this code: out of reset, the head frame carries the code and a response slot
is empty. The result is the state after the take (the frame has left the queue and the lowest-numbered
empty slot is reserved), that slot, and the payload. -/
def takeCommand (code : CommandCode) (s : State) : Option (State × RespIx × List Byte) :=
  match s.resetn, s.queue, s.bank.lowestEmpty with
  | true, f :: rest, some k =>
    if f.code = code then some ({ s with queue := rest, bank := s.bank.reserve k f }, k, f.payload) else none
  | _, _, _ => none

/-- Take and execute in one step (R179). Where the head of the queue is no command of this code or no
response slot is empty, the table controller takes no such command and nothing changes. -/
def runCommand (code : CommandCode) (body : RespIx → List Byte → State → State) (s : State) :
    Host.Outcome State Fault Refusal :=
  match takeCommand code s with
  | some (s', k, p) => .next (body k p s')
  | none => .next s

/-- An immediate completion: the outcome fills the command's own slot in the step of the execution. -/
def State.answer (s : State) (k : RespIx) (outcome : CmdOutcome) (payload : List Byte := []) : State :=
  s.fillAll [⟨k, outcome, payload⟩]

/-! ### Timers (R167) -/

/-- One more tick, saturating at 65535. -/
def advance (elapsed : Nat) : Nat :=
  min Config.timerMax (elapsed + 1)

/-- A response or stall timer expires at the tick that leaves its count at `elapsed`; a setting of 0 turns
its kind off (R109, R149). -/
def expires (setting elapsed : Nat) : Bool :=
  decide (setting ≠ 0) && decide (setting ≤ elapsed)

/-! ### Contexts -/

/-- Change one context record. -/
def State.updContext (s : State) (n : Initiator) (f : Context → Context) : State :=
  { s with contexts := updAt s.contexts n f }

/-- The pending binding of a rebind state, if it has one (R52). -/
def Rebind.pending? : Rebind → Option Pending
  | .none => Option.none
  | .staged p => some p
  | .fencing p => some p

/-- The rebind state is FENCING. -/
def Rebind.isFencing : Rebind → Bool
  | .fencing _ => true
  | _ => false

/-- The FENCE_BEGUN record of R68. -/
def fenceBegun (n : Initiator) (p : Pending) : Event where
  kind := .fenceBegun
  desc := { initiator := some n, window := p.target.map Handle.index, handle := p.target }

end Sys2Proof.Machine
end

