-- ==== Sys2Proof/WellFormed.lean ====
section
/-! DEFINITION. Which commands the wires can carry: a WRITE brings as many beats as its length and a READ
none (R28), and edges of a session come in the order SPI mode 0 gives them (R171). -/

namespace Sys2Proof

/-- The type byte of a FETCH session (R186). -/
def fetchType : Byte := 0xA5#8

/-- The type byte of a COMMAND session (R186). -/
def commandType : Byte := 0x5A#8

/-- A request carries its write data whole, and a READ carries none (R28, R29). -/
def Request.complete (r : Request) : Bool :=
  match r.kind with
  | .write => r.data.length == beatCount r.len
  | .read => r.data.isEmpty

/-- Which edge can follow which within a session: SCLK idles low while CS is high, and nothing of the session
follows the rising edge of CS (R171). -/
def SpiEdge.follows : SpiEdge → SpiEdge → Bool
  | .csFall, .sclkRise _ => true
  | .csFall, .csRise => true
  | .sclkRise _, .sclkFall => true
  | .sclkFall, .sclkRise _ => true
  | .sclkFall, .csRise => true
  | _, _ => false

/-- Edges that can follow one another on the wires. -/
def legalEdges : List SpiEdge → Bool
  | a :: b :: rest => a.follows b && legalEdges (b :: rest)
  | _ => true

/-- The commands that the part's pins can express. -/
def Instr.wf : Instr → Bool
  | .resetnAssert => true
  | .resetnRelease _ _ _ => true
  | .tick => true
  | .upstreamRequest _ r => r.complete
  | .take => true
  | .downstreamAccept => true
  | .downstreamResponse _ _ _ => true
  | .responseTimeout => true
  | .delivery _ => true
  | .stagedCommit _ => true
  | .drainTimerExpiry => true
  | .stallTimerExpiry => true
  | .subtreeFree _ => true
  | .holdEnd _ => true
  | .portReady => true
  | .commandFrame edges => legalEdges edges
  | .fetchSelect => true
  | .fetchEnd edges => legalEdges edges && edges.head? != some .csFall
  | .derive => true
  | .shrink => true
  | .revoke => true
  | .bindDefault => true
  | .setInitiator => true
  | .resetMemoryPort => true
  | .setControl => true
  | .readWindow => true
  | .readInitiator => true
  | .readEvent => true
  | .readStatus => true

end Sys2Proof
end

