-- ==== Sys2Proof/Machine/Admission.lean ====
section
/-! DEFINITION. Chapter 2: lanes, eligibility, the admission arbiter, the check order and the take.
Commands UPSTREAM_REQUEST and TAKE. -/

namespace Sys2Proof.Machine

/-! ### Eligibility and the arbiter -/

/-- A lane is eligible when it holds a head, the port is READY, the tracker has a FREE entry, the
initiator's undelivered count is below 8 and its rebind state is not FENCING (R32). -/
def State.eligible (s : State) (n : Initiator) : Bool :=
  !s.lanes[n].isEmpty && s.port == .ready && s.lowestFreeTag.isSome
    && decide (s.contexts[n].undelivered < Config.maxUndelivered) && !s.contexts[n].rebind.isFencing

/-- The lane the admission arbiter grants (R34). -/
def State.grantedLane (s : State) : Option Initiator :=
  roundRobin s.admitPtr s.eligible

/-! ### The check order (section 2.6) -/

/-- How a check order ends: admitted under a window, or refused with a kind and the window index of the
event record (R43). -/
inductive Judgement
  | admitted (window : SlotIx)
  | refuse (kind : EventKind) (window : Option SlotIx)

/-- Step 2's test (R37): a multiple of 8, not crossing a 4 KiB boundary. -/
def wellPlaced (r : Request) : Bool :=
  r.addr.toNat % 8 == 0 && decide (r.addr.toNat % Config.page + 8 * beatCount r.len ≤ Config.page)

/-- The permission an access kind needs (R40). -/
def Perms.grants (p : Perms) : AccessKind → Bool
  | .read => p.read
  | .write => p.write

/-- The refusal kind of step 5 (R40). -/
def noPermission : AccessKind → EventKind
  | .read => .noRead
  | .write => .noWrite

/-- Step 6's test (R40): the access lies within the window's bounds. -/
def withinWindow (r : Request) (w : Window) : Bool :=
  decide (w.base ≤ r.addr.toNat) && decide (r.addr.toNat + 8 * beatCount r.len ≤ w.limit)

/-- Steps 5 and 6 against the window a request is judged against (R40). A FREE slot, which no handle that
passed step 3 and no default names (R73), grants no permission. -/
def State.judgeAgainst (s : State) (r : Request) (ix : SlotIx) : Judgement :=
  match s.windows[ix].occ.window? with
  | none => .refuse (noPermission r.kind) (some ix)
  | some w =>
    if !w.perms.grants r.kind then .refuse (noPermission r.kind) (some ix)
    else if !withinWindow r w then .refuse .outOfBounds (some ix)
    else .admitted ix

/-- Step 3, on a request that carries a handle (R38). -/
def State.judgeHandle (s : State) (n : Initiator) (r : Request) (h : Handle) : Judgement :=
  if h.index = 0 then .refuse .rootNamed none
  else if !s.validHandle h then .refuse .staleHandle none
  else
    match s.windows[h.index].occ with
    | .free => .refuse .staleHandle none
    | .revoking _ _ => .refuse .revoking (some h.index)
    | .live w =>
      if !w.holders.getLsbD n.val then .refuse .notHolder (some h.index) else s.judgeAgainst r h.index

/-- The whole check order (R37 to R40). -/
def State.judge (s : State) (n : Initiator) (r : Request) : Judgement :=
  if s.contexts[n].state = .closed then .refuse .closed none
  else if !wellPlaced r then .refuse .malformed none
  else
    match r.handle with
    | some h => s.judgeHandle n r h
    | none =>
      match s.contexts[n].current with
      | none => .refuse .noDefault none
      | some h => s.judgeAgainst r h.index

/-! ### The take -/

/-- The head leaves its lane and the arbiter's pointer passes the lane (R31, R34). -/
def State.leaveLane (s : State) (n : Initiator) : State :=
  { s with lanes := updAt s.lanes n List.tail, admitPtr := n + 1 }

/-- What every take does with its new entry: the tag joins the delivery list and the undelivered count
rises (R41, R42). -/
def State.enter (s : State) (n : Initiator) (t : Tag) (e : Entry) : State :=
  { s with
    tracker := s.tracker.set t e
    deliveryLists := updAt s.deliveryLists n (· ++ [t])
    contexts := updAt s.contexts n fun c => { c with undelivered := c.undelivered + 1 } }

/-- An admitted take (R41): a QUEUED entry, the window's count raised, the tag in the forward order. -/
def State.enterAdmitted (s : State) (n : Initiator) (r : Request) (t : Tag) (ix : SlotIx) : State :=
  let s' := s.enter n t (.queued ⟨n, ix, r.kind, r.addr, r.len⟩ r.data)
  { s' with
    windows := updAt s'.windows ix (WindowSlot.mapWindow addInFlight)
    forward := s'.forward ++ [t] }

/-- The refusal closes its initiator (R44). -/
def Context.quarantines (c : Context) : Bool :=
  c.state == .opened && c.policy == .quarantine

/-- The event record of a refused take (R43). -/
def refusalEvent (n : Initiator) (r : Request) (t : Tag) (kind : EventKind) (window : Option SlotIx)
    (quarantine : Bool) : Event where
  kind := kind
  desc :=
    { initiator := some n, window := window, handle := r.handle, access := some r.kind, addr := some r.addr,
      len := some r.len, tag := some t }
  quarantine := quarantine

/-- A refused take (R42, R44): a REFUSED entry, one record, and the closing under QUARANTINE. -/
def State.refuse (s : State) (n : Initiator) (r : Request) (t : Tag) (kind : EventKind)
    (window : Option SlotIx) : State :=
  let q := s.contexts[n].quarantines
  let s' := s.enter n t (.refused n r.kind r.len)
  let s'' := if q then s'.updContext n (fun c => { c with state := .closed }) else s'
  s''.logAll [refusalEvent n r t kind window q]

/-- The take of a lane's head under a tag: removed, judged on the state as it stands, entered (R36). -/
def State.takeFrom (s : State) (n : Initiator) (t : Tag) (r : Request) : State :=
  match s.judge n r with
  | .admitted ix => (s.leaveLane n).enterAdmitted n r t ix
  | .refuse kind window => (s.leaveLane n).refuse n r t kind window

/-- The arbiter grants an eligible lane and its head is taken under the lowest FREE tag (R34, R36). With no
eligible lane nothing is granted and the pointer stays. -/
def State.takeOne (s : State) : State :=
  match s.grantedLane, s.lowestFreeTag with
  | some n, some t =>
    match s.lanes[n] with
    | r :: _ => s.takeFrom n t r
    | [] => s
  | _, _ => s

/-! ### Meanings -/

/-- A complete request joins the tail of its lane; a lane of 4 holds its initiator back (R29). A request
whose write data has not all arrived has not arrived (R29). -/
def State.arrive (s : State) (n : Initiator) (r : Request) : State :=
  if r.complete && decide (s.lanes[n].length < Config.laneDepth) then
    { s with lanes := updAt s.lanes n (· ++ [r]) }
  else s

/-- UPSTREAM_REQUEST (R29, R30). -/
def execUpstreamRequest (n : Initiator) (r : Request) (s : State) : Host.Outcome State Fault Refusal :=
  whenOutOfReset s fun s => s.arrive n r

/-- TAKE (R36). -/
def execTake (s : State) : Host.Outcome State Fault Refusal :=
  whenOutOfReset s State.takeOne

end Sys2Proof.Machine
end

