-- ==== Sys2Proof/Machine/Operands.lean ====
section
/-! DEFINITION. The payloads of the command frames as the table controller decodes them at execution (R189,
section 11.2), and the multi-byte fields they are made of (R185). -/

namespace Sys2Proof.Machine

/-! ### Fields (R185) -/

/-- Byte `i` of a payload. A queued frame's payload has the length its code requires (R173), so every byte
asked for exists. -/
def byteAt (p : List Byte) (i : Nat) : Byte :=
  p.getD i 0#8

/-- An unsigned field of `n` bytes from byte `at_`, most significant byte first. -/
def fieldAt (p : List Byte) (at_ n : Nat) : Nat :=
  (List.range n).foldl (fun acc k => acc * 256 + (byteAt p (at_ + k)).toNat) 0

/-- A signed 6-byte field, two's complement. -/
def signed48At (p : List Byte) (at_ : Nat) : Int :=
  (BitVec.ofNat 48 (fieldAt p at_ 6)).toInt

/-- The `n` bytes of an unsigned field, most significant byte first. -/
def fieldBytes (n v : Nat) : List Byte :=
  (List.range n).map fun k => BitVec.ofNat 8 (v / 256 ^ (n - 1 - k))

/-- The 6 bytes of a signed field. -/
def signed48Bytes (v : Int) : List Byte :=
  fieldBytes 6 (BitVec.ofInt 48 v).toNat

/-! ### Handles, initiators, sets -/

/-- A handle of a command frame: a full byte of index and one of generation. An index from 64 to 255 names
no slot, and then there is no handle of the table to validate (R6). -/
def handleAt (p : List Byte) (at_ : Nat) : Option Handle :=
  if h : (byteAt p at_).toNat < 64 then some ⟨⟨(byteAt p at_).toNat, h⟩, byteAt p (at_ + 1)⟩ else none

/-- An initiator byte; 8 to 255 name none (R189). -/
def initiatorAt (p : List Byte) (at_ : Nat) : Option Initiator :=
  if h : (byteAt p at_).toNat < 8 then some ⟨(byteAt p at_).toNat, h⟩ else none

/-- A slot index byte; 64 to 255 name none (R189). -/
def slotIxAt (p : List Byte) (at_ : Nat) : Option SlotIx :=
  if h : (byteAt p at_).toNat < 64 then some ⟨(byteAt p at_).toNat, h⟩ else none

/-- A permissions byte: bits 0, 1 and 2; any other bit set is malformed (R189). -/
def permsOf (b : Byte) : Option Perms :=
  if b &&& 0xF8#8 = 0#8 then some ⟨b.getLsbD 0, b.getLsbD 1, b.getLsbD 2⟩ else none

/-- A permissions set as its byte. -/
def Perms.toByte (p : Perms) : Byte :=
  BitVec.ofNat 8 (p.read.toNat + 2 * p.write.toNat + 4 * p.derive.toNat)

/-- Inclusion of permission sets (R14). -/
def Perms.subset (a b : Perms) : Bool :=
  (!a.read || b.read) && (!a.write || b.write) && (!a.derive || b.derive)

/-- A marker byte that is 0x00 or 0x01: an alert enable, a relocation marker (R189). -/
def flagOf (b : Byte) : Option Bool :=
  if b = 0#8 then some false else if b = 1#8 then some true else none

/-! ### Arguments -/

/-- The arguments of DERIVE that the checks after check 0 judge. -/
structure DeriveArgs where
  parent : Option Handle
  base : Nat
  limit : Nat
  perms : Perms
  holders : BitVec 8
  reloc : Option Int

/-- DERIVE's payload; nothing where check 0 fails (R119). -/
def deriveArgs (p : List Byte) : Option DeriveArgs :=
  match permsOf (byteAt p 14), flagOf (byteAt p 16) with
  | some perms, some present =>
    some
      { parent := handleAt p 0
        base := fieldAt p 2 6
        limit := fieldAt p 8 6
        perms := perms
        holders := byteAt p 15
        reloc := if present then some (signed48At p 17) else none }
  | _, _ => none

/-- The arguments of SHRINK that the checks after check 0 judge. -/
structure ShrinkArgs where
  handle : Option Handle
  base : Nat
  limit : Nat
  perms : Perms
  holders : BitVec 8

/-- SHRINK's payload; nothing where check 0 fails (R119). -/
def shrinkArgs (p : List Byte) : Option ShrinkArgs :=
  match permsOf (byteAt p 14) with
  | some perms =>
    some
      { handle := handleAt p 0
        base := fieldAt p 2 6
        limit := fieldAt p 8 6
        perms := perms
        holders := byteAt p 15 }
  | none => none

/-- A BIND_DEFAULT binding (R62): none, or a handle, which may name no slot. -/
inductive Binding
  | clear
  | handle (h : Option Handle)

/-- The binding of BIND_DEFAULT's payload: marker 0x00 means none, any other value the handle given
(R189). -/
def bindingOf (p : List Byte) : Binding :=
  if byteAt p 1 = 0#8 then .clear else .handle (handleAt p 2)

/-- SET_INITIATOR's state byte (R189). -/
def initStateOf (b : Byte) : Option InitState :=
  if b = 0#8 then some .closed else if b = 1#8 then some .opened else none

/-- SET_INITIATOR's policy byte (R189). -/
def policyOf (b : Byte) : Option Policy :=
  if b = 0#8 then some .answer else if b = 1#8 then some .quarantine else none

/-- SET_CONTROL's payload; nothing where any value is out of its range (R168). -/
def settingsOf (p : List Byte) : Option Settings :=
  let prescale := fieldAt p 0 2
  match flagOf (byteAt p 8), flagOf (byteAt p 9) with
  | some ev, some rs =>
    if 1 ≤ prescale ∧ prescale ≤ 1024 then
      some
        { prescale := prescale
          drainDeadline := fieldAt p 2 2
          responseTimeout := fieldAt p 4 2
          stallNotice := fieldAt p 6 2
          alertOnEvents := ev
          alertOnResponses := rs }
    else none
  | _, _ => none

/-! ### The same layouts as the host writes them (section 11.2) -/

/-- DERIVE's payload for a parent handle. -/
def encodeDerive (h : Handle) (base limit : Nat) (perms : Perms) (holders : BitVec 8) (reloc : Option Int) :
    List Byte :=
  [BitVec.ofNat 8 h.index.val, h.gen] ++ fieldBytes 6 base ++ fieldBytes 6 limit ++ [perms.toByte, holders]
    ++ (if reloc.isSome then [1#8] else [0#8]) ++ signed48Bytes (reloc.getD 0)

/-- SHRINK's payload. -/
def encodeShrink (h : Handle) (base limit : Nat) (perms : Perms) (holders : BitVec 8) : List Byte :=
  [BitVec.ofNat 8 h.index.val, h.gen] ++ fieldBytes 6 base ++ fieldBytes 6 limit ++ [perms.toByte, holders]

/-! ### Codes (sections 11.2, 11.3 and 11.6) -/

/-- The code of a command (section 11.2). -/
def CommandCode.toByte : CommandCode → Byte
  | .derive => 0x01#8
  | .shrink => 0x02#8
  | .revoke => 0x03#8
  | .bindDefault => 0x04#8
  | .setInitiator => 0x05#8
  | .resetMemoryPort => 0x06#8
  | .setControl => 0x07#8
  | .readWindow => 0x08#8
  | .readInitiator => 0x09#8
  | .readEvent => 0x0A#8
  | .readStatus => 0x0B#8

/-- The eleven commands. -/
def allCommands : List CommandCode :=
  [.derive, .shrink, .revoke, .bindDefault, .setInitiator, .resetMemoryPort, .setControl, .readWindow,
    .readInitiator, .readEvent, .readStatus]

/-- The command a code byte names; 0x00 and 0x0C to 0xFF name none (R186). -/
def commandOf (b : Byte) : Option CommandCode :=
  allCommands.find? fun c => c.toByte == b

/-- The payload length a command requires (section 11.2). -/
def CommandCode.payloadLength : CommandCode → Nat
  | .derive => 23
  | .shrink => 16
  | .revoke => 2
  | .bindDefault => 4
  | .setInitiator => 3
  | .resetMemoryPort => 0
  | .setControl => 10
  | .readWindow => 1
  | .readInitiator => 1
  | .readEvent => 0
  | .readStatus => 0

/-- The code of an outcome (section 11.3). -/
def CmdOutcome.toByte : CmdOutcome → Byte
  | .done => 0x00#8
  | .empty => 0x01#8
  | .staleHandle => 0x02#8
  | .windowRevoking => 0x03#8
  | .noDerive => 0x04#8
  | .badBounds => 0x05#8
  | .outOfParent => 0x06#8
  | .permNotSubset => 0x07#8
  | .holdersNotSubset => 0x08#8
  | .tooDeep => 0x09#8
  | .badRelocation => 0x0A#8
  | .tableFull => 0x0B#8
  | .notNarrower => 0x0C#8
  | .childConflict => 0x0D#8
  | .defaultConflict => 0x0E#8
  | .rootProtected => 0x0F#8
  | .notHolder => 0x10#8
  | .badInitiator => 0x11#8
  | .badArgument => 0x12#8
  | .alreadyRevoking => 0x13#8
  | .queueFull => 0x14#8
  | .replaced => 0x15#8
  | .discarded => 0x16#8
  | .revokedByAncestor => 0x17#8

/-- The code of an event kind (section 11.6). -/
def EventKind.toByte : EventKind → Byte
  | .closed => 0x01#8
  | .malformed => 0x02#8
  | .rootNamed => 0x03#8
  | .staleHandle => 0x04#8
  | .revoking => 0x05#8
  | .notHolder => 0x06#8
  | .noDefault => 0x07#8
  | .noRead => 0x08#8
  | .noWrite => 0x09#8
  | .outOfBounds => 0x0A#8
  | .memoryError => 0x10#8
  | .responseTimeout => 0x11#8
  | .lateResponse => 0x12#8
  | .strayResponse => 0x13#8
  | .fenceBegun => 0x14#8
  | .defaultCleared => 0x15#8
  | .revokeStalled => 0x16#8

/-- The code of a verdict (section 11.4). -/
def Verdict.code : Verdict → Nat
  | .accepted => 0
  | .queueFull => 1
  | .badCrc => 2
  | .badLength => 3
  | .unknownCommand => 4

/-- One byte of CRC-8: polynomial x^8 + x^2 + x + 1, bits most significant first (R185). -/
def crcStep (c : Byte) : Byte :=
  if c.getLsbD 7 then (c <<< 1) ^^^ 0x07#8 else c <<< 1

/-- CRC-8 of a list of bytes, initial value 0, no final inversion (R185). -/
def crc8 (bytes : List Byte) : Byte :=
  bytes.foldl (fun c b => (List.range 8).foldl (fun acc _ => crcStep acc) (c ^^^ b)) 0#8

/-- The bytes of a response frame on the wire (section 11.3). -/
def ResponseFrame.bytes (f : ResponseFrame) : List Byte :=
  let body := [f.seq, f.code.toByte, f.outcome.toByte, BitVec.ofNat 8 f.payload.length] ++ f.payload
  body ++ [crc8 body]

/-- A command frame as the host sends it (section 11.2): the encoding that the verdict tests accept. -/
def Frame.bytes (f : Frame) : List Byte :=
  let body := [0x5A#8, f.seq, f.code.toByte, BitVec.ofNat 8 f.payload.length] ++ f.payload
  body ++ [crc8 body]

/-- The EMPTY frame of a FETCH with nothing filled (R187). -/
def emptyFrame : List Byte :=
  [0x00#8, 0x00#8, 0x01#8, 0x00#8, crc8 [0x00#8, 0x00#8, 0x01#8, 0x00#8]]

end Sys2Proof.Machine
end

