-- ==== Sys2Proof/Machine/Flags.lean ====
section
/-! DEFINITION. What the part computes from its state and shows: ALERT, the status byte, the reset output,
the counts of READ_STATUS, and the read-back payloads of chapter 11. -/

namespace Sys2Proof.Machine

/-! ### Counts -/

/-- Filled response slots (R178). -/
def SlotBank.filledCount (b : SlotBank) : Nat :=
  (List.finRange 8).countP fun k => b.slots[k].isFilled

/-- Reserved response slots (R178). -/
def SlotBank.reservedCount (b : SlotBank) : Nat :=
  (List.finRange 8).countP fun k => b.slots[k].isReserved

/-- Tracker entries that are not FREE (R77). -/
def State.occupancy (s : State) : Nat :=
  (List.finRange 32).countP fun t => !s.tracker[t].isFree

/-- LIVE windows (R27). -/
def State.liveCount (s : State) : Nat :=
  (List.finRange 64).countP fun i => s.windows[i].isLive

/-- REVOKING windows (R27). -/
def State.revokingCount (s : State) : Nat :=
  (List.finRange 64).countP fun i => s.windows[i].isRevoking

/-- FREE slots (R27). -/
def State.freeCount (s : State) : Nat :=
  (List.finRange 64).countP fun i => s.windows[i].isFree

/-! ### ALERT and the status byte -/

/-- The ALERT condition (R182). -/
def State.alert (s : State) : Bool :=
  s.settings.alertOnEvents && !s.log.records.isEmpty
    || s.settings.alertOnResponses && (List.finRange 8).any fun k => s.bank.slots[k].isFilled

/-- The filled class of R172: the filled count up to 3, and 4 for 4 to 8. -/
def filledClass (n : Nat) : Nat :=
  min n 4

/-- The status code of R188. -/
def State.statusCode (s : State) : Nat :=
  25 * s.verdict.code + 5 * s.queue.length + filledClass s.bank.filledCount

/-- The status byte (R188): the alert condition in bit 7, the status code below it. -/
def State.statusByte (s : State) : Byte :=
  (if s.alert then 0x80#8 else 0x00#8) ||| BitVec.ofNat 8 (s.statusCode % 128)

/-- Pin DNRSTN: low while the downstream reset output is asserted, in HOLDING alone (R100, R191). -/
def State.dnrstnLow (s : State) : Bool :=
  match s.port with
  | .holding _ => true
  | _ => false

/-- Pin MISO: at high impedance while CS is high, zero while RESETN is low, otherwise the bit being shifted
(R171, R184, R188). -/
def State.misoPin (s : State) : Option Bool :=
  s.session.map fun a => s.resetn && a.pin

/-! ### Read-back payloads (sections 11.5 and 11.6) -/

/-- A handle in two bytes, index first (R185); an absent one as zeros. -/
def handleBytes : Option Handle → List Byte
  | some h => [BitVec.ofNat 8 h.index.val, h.gen]
  | none => [0#8, 0#8]

/-- A byte whose bits 0, 1, 2 … are the flags given. -/
def bitsByte (flags : List Bool) : Byte :=
  BitVec.ofNat 8 (flags.foldr (fun b acc => b.toNat + 2 * acc) 0)

/-- An optional number in one byte, zero when absent (R185). -/
def optByte (v : Option Nat) : Byte :=
  BitVec.ofNat 8 (v.getD 0)

/-- Bytes 3 to 40 of READ_WINDOW's payload, from the window a slot holds (section 11.5). -/
def windowFields (w : Window) : List Byte :=
  [optByte (w.parent.map Fin.val), BitVec.ofNat 8 w.depth]
    ++ fieldBytes 6 w.base ++ fieldBytes 6 w.limit ++ [w.perms.toByte, w.holders]
    ++ signed48Bytes (w.reloc.getD 0) ++ signed48Bytes w.offset
    ++ [BitVec.ofNat 8 ((List.range 64).countP fun n => w.children.getLsbD n)]
    ++ fieldBytes 8 w.children.toNat ++ [BitVec.ofNat 8 w.inFlight]

/-- READ_WINDOW's payload, 42 bytes (R136, section 11.5). The layout gives bits 0 to 3 of the presence byte
alone; DESIGN CHOICE: bits 4 to 7 are sent as 0 (log entry 18). -/
def WindowSlot.report (v : WindowSlot) : List Byte :=
  match v.occ with
  | .free => [0#8, v.gen] ++ List.replicate 40 0#8
  | .live w => [1#8, v.gen, bitsByte [w.parent.isSome, true, w.reloc.isSome, false]] ++ windowFields w ++ [0#8]
  | .revoking w c =>
    [2#8, v.gen, bitsByte [w.parent.isSome, true, w.reloc.isSome, true]] ++ windowFields w
      ++ [BitVec.ofNat 8 c.val]

/-- READ_INITIATOR's payload, 13 bytes (R75, section 11.5). -/
def Context.report (c : Context) : List Byte :=
  [match c.state with | .closed => 0#8 | .opened => 1#8, match c.policy with | .answer => 0#8 | .quarantine => 1#8]
    ++ [bitsByte [c.current.isSome]] ++ handleBytes c.current
    ++ (match c.rebind.pending? with
        | none => [0#8] ++ handleBytes none ++ [0#8, 0#8] ++ fieldBytes 2 0
        | some p =>
          [if p.target.isSome then 2#8 else 1#8] ++ handleBytes p.target
            ++ [if c.rebind.isFencing then 2#8 else 1#8, 1#8] ++ fieldBytes 2 p.elapsed)
    ++ [BitVec.ofNat 8 c.undelivered]

/-- READ_STATUS's payload, 22 bytes (R181, section 11.5). -/
def State.report (s : State) : List Byte :=
  [match s.port with | .ready => 0#8 | _ => 1#8, BitVec.ofNat 8 s.occupancy]
    ++ (List.finRange 8).map (fun n => BitVec.ofNat 8 s.contexts[n].undelivered)
    ++ [BitVec.ofNat 8 s.liveCount, BitVec.ofNat 8 s.revokingCount, BitVec.ofNat 8 s.freeCount,
        BitVec.ofNat 8 s.revocations.length, BitVec.ofNat 8 s.log.records.length]
    ++ fieldBytes 4 s.tickCount.toNat
    ++ [BitVec.ofNat 8 s.queue.length, BitVec.ofNat 8 s.bank.filledCount, BitVec.ofNat 8 s.bank.reservedCount]

/-- READ_EVENT's payload, 28 bytes (R190, section 11.6). The layout gives bit 0 of the flags byte alone;
DESIGN CHOICE: bits 1 to 7 are sent as 0 (log entry 18). -/
def EventRecord.report (r : EventRecord) : List Byte :=
  fieldBytes 2 r.seq.toNat
    ++ [r.kind.toByte,
        bitsByte [r.desc.initiator.isSome, r.desc.window.isSome, r.desc.handle.isSome, r.desc.access.isSome,
          r.desc.addr.isSome, r.desc.len.isSome, r.desc.tag.isSome, r.desc.inFlightTotal.isSome],
        bitsByte [r.quarantine], optByte (r.desc.initiator.map Fin.val), optByte (r.desc.window.map Fin.val)]
    ++ handleBytes r.desc.handle
    ++ [match r.desc.access with | some .write => 1#8 | _ => 0#8]
    ++ fieldBytes 5 (match r.desc.addr with | some a => a.toNat | none => 0)
    ++ [optByte (r.desc.len.map beatCount), optByte (r.desc.tag.map Fin.val)]
    ++ fieldBytes 4 r.firstTick.toNat ++ fieldBytes 4 r.lastTick.toNat
    ++ [BitVec.ofNat 8 r.repeats, BitVec.ofNat 8 r.drops, optByte r.desc.inFlightTotal]

/-- SET_CONTROL's payload, 10 bytes in the command's layout (R168, section 11.2). -/
def Settings.report (c : Settings) : List Byte :=
  fieldBytes 2 c.prescale ++ fieldBytes 2 c.drainDeadline ++ fieldBytes 2 c.responseTimeout
    ++ fieldBytes 2 c.stallNotice ++ [bitsByte [c.alertOnEvents], bitsByte [c.alertOnResponses]]

end Sys2Proof.Machine
end

