-- ==== Sys2Proof/Machine/ContextCommands.lean ====
section
/-! DEFINITION. Chapter 3's commands: BIND_DEFAULT, SET_INITIATOR and READ_INITIATOR. -/

namespace Sys2Proof.Machine

/-! ### BIND_DEFAULT -/

/-- Checks 2 to 4 of R62 on a binding: what to make the default, or the first failing outcome. -/
def bindChecks (s : State) (n : Initiator) (b : Binding) : Except CmdOutcome (Option Handle) :=
  match b with
  | .clear => .ok none
  | .handle none => .error .staleHandle
  | .handle (some h) =>
    if !s.validHandle h then .error .staleHandle
    else
      match s.windows[h.index].occ with
      | .free => .error .staleHandle
      | .revoking _ _ => .error .windowRevoking
      | .live w => if w.holders.getLsbD n.val then .ok (some h) else .error .notHolder

/-- A staging (R64): the drain timer starts at 0 and the slot stays reserved; with a drain deadline of 0 the
timer has expired already, and the rebind state goes on to FENCING with its record in the same step. -/
def State.stage (s : State) (n : Initiator) (k : RespIx) (target : Option Handle) : State :=
  let p : Pending := { target := target, slot := k, elapsed := 0, due := false }
  if s.settings.drainDeadline = 0 then
    (s.updContext n fun c => { c with rebind := .fencing p }).logAll [fenceBegun n p]
  else s.updContext n fun c => { c with rebind := .staged p }

/-- A replacement (R65): the earlier command is answered REPLACED; the timer and the rebind state are
kept. -/
def State.replaceBinding (s : State) (n : Initiator) (k : RespIx) (target : Option Handle) (old : Pending) :
    State :=
  (s.updContext n fun c =>
      { c with
        rebind :=
          match c.rebind with
          | .none => .none
          | .staged p => .staged { p with target := target, slot := k }
          | .fencing p => .fencing { p with target := target, slot := k } }).fillAll
    [{ slot := old.slot, outcome := .replaced }]

/-- A binding that passed its checks replaces a pending one (R65), commits at once with nothing undelivered
(R63), or is staged (R64). -/
def State.bind (s : State) (n : Initiator) (k : RespIx) (target : Option Handle) : State :=
  match s.contexts[n].rebind.pending? with
  | some old => s.replaceBinding n k target old
  | none =>
    if s.contexts[n].undelivered = 0 then
      (s.updContext n fun c => { c with current := target }).answer k .done
    else s.stage n k target

/-- BIND_DEFAULT's execution (R62). -/
def bindDefaultBody (k : RespIx) (p : List Byte) (s : State) : State :=
  match initiatorAt p 0 with
  | none => s.answer k .badInitiator
  | some n =>
    match bindChecks s n (bindingOf p) with
    | .error o => s.answer k o
    | .ok target => s.bind n k target

/-! ### SET_INITIATOR -/

/-- SET_INITIATOR's execution (R58): initiator, then state and policy. -/
def setInitiatorBody (k : RespIx) (p : List Byte) (s : State) : State :=
  match initiatorAt p 0 with
  | none => s.answer k .badInitiator
  | some n =>
    match initStateOf (byteAt p 1), policyOf (byteAt p 2) with
    | some st, some po =>
      (s.updContext n fun c => { c with state := st, policy := po }).answer k .done
    | _, _ => s.answer k .badArgument

/-! ### READ_INITIATOR -/

/-- READ_INITIATOR's execution (R75). -/
def readInitiatorBody (k : RespIx) (p : List Byte) (s : State) : State :=
  match initiatorAt p 0 with
  | none => s.answer k .badInitiator
  | some n => s.answer k .done s.contexts[n].report

/-! ### Meanings -/

/-- BIND_DEFAULT (R62, R179). -/
def execBindDefault (s : State) : Host.Outcome State Fault Refusal :=
  runCommand .bindDefault bindDefaultBody s

/-- SET_INITIATOR (R58, R179). -/
def execSetInitiator (s : State) : Host.Outcome State Fault Refusal :=
  runCommand .setInitiator setInitiatorBody s

/-- READ_INITIATOR (R75, R179). -/
def execReadInitiator (s : State) : Host.Outcome State Fault Refusal :=
  runCommand .readInitiator readInitiatorBody s

end Sys2Proof.Machine
end

