-- ==== Sys2Proof/Machine/ControlCommands.lean ====
section
/-! DEFINITION. Commands SET_CONTROL (chapter 9), READ_EVENT (chapter 8) and READ_STATUS (chapter 10). -/

namespace Sys2Proof.Machine

/-- SET_CONTROL's execution (R168): all six settings or none, and the response carries those held after. -/
def setControlBody (k : RespIx) (p : List Byte) (s : State) : State :=
  match settingsOf p with
  | some c => { s with settings := c }.answer k .done c.report
  | none => s.answer k .badArgument s.settings.report

/-- READ_EVENT's execution (R159, R160). -/
def readEventBody (k : RespIx) (_payload : List Byte) (s : State) : State :=
  match s.log.records with
  | r :: rest => { s with log := { s.log with records := rest } }.answer k .done r.report
  | [] => s.answer k .empty

/-- READ_STATUS's execution (R181): the counts as they stand, its own slot reserved and its frame out of the
queue. -/
def readStatusBody (k : RespIx) (_payload : List Byte) (s : State) : State :=
  s.answer k .done s.report

/-! ### Meanings -/

/-- SET_CONTROL (R168, R179). -/
def execSetControl (s : State) : Host.Outcome State Fault Refusal :=
  runCommand .setControl setControlBody s

/-- READ_EVENT (R159, R179). -/
def execReadEvent (s : State) : Host.Outcome State Fault Refusal :=
  runCommand .readEvent readEventBody s

/-- READ_STATUS (R181, R179). -/
def execReadStatus (s : State) : Host.Outcome State Fault Refusal :=
  runCommand .readStatus readStatusBody s

end Sys2Proof.Machine
end

