-- ==== Sys2Proof/Machine/Delivery.lean ====
section
/-! DEFINITION. Chapter 4's response port and chapter 3's commit and drain timers: commands DELIVERY,
STAGED_COMMIT and DRAIN_TIMER_EXPIRY. -/

namespace Sys2Proof.Machine

/-! ### The response -/

/-- What an entry is called toward its initiator (R77, R93). -/
def Entry.status : Entry → RespStatus
  | .refused _ _ _ => .refused
  | .done _ .okay => .okay
  | .done _ .memoryError => .memoryError
  | .done _ .portReset => .portReset
  | _ => .timeout

/-- Access kind and length of an entry in use (R77). -/
def Entry.shape : Entry → Option (AccessKind × Fin 16)
  | .free => none
  | .refused _ kind len => some (kind, len)
  | .queued x _ => some (x.kind, x.len)
  | .issued x _ _ => some (x.kind, x.len)
  | .done x _ => some (x.kind, x.len)
  | .expired x _ => some (x.kind, x.len)
  | .orphaned x => some (x.kind, x.len)

/-- The response of R93: a READ carries its beats from the store with OKAY and zeros otherwise, a WRITE
none. -/
def Entry.response (e : Entry) (slot : Vector Beat 16) : UpResponse where
  status := e.status
  data :=
    match e.shape with
    | some (.read, len) =>
      if e.status = .okay then slot.toList.take (beatCount len) else List.replicate (beatCount len) 0#64
    | _ => []

/-- A delivered entry: an EXPIRED one with late-pending set is ORPHANED, any other FREE (R92). -/
def Entry.afterDelivery : Entry → Entry
  | .expired x true => .orphaned x
  | _ => .free

/-! ### The arbiter -/

/-- The initiator has a deliverable head (R88). -/
def State.deliverableHead (s : State) (n : Initiator) : Bool :=
  match s.deliveryLists[n] with
  | t :: _ => s.tracker[t].deliverable
  | [] => false

/-- The initiator the response port arbiter grants, of those with a deliverable head and an accepting
channel (R89). -/
def State.grantedResponse (s : State) (accepting : BitVec 8) : Option Initiator :=
  roundRobin s.respPtr fun n => accepting.getLsbD n.val && s.deliverableHead n

/-! ### Delivery and commit -/

/-- The commit of a staged binding (R66): the pending default becomes current, the rebind state NONE, and
the staging command's slot is filled DONE. -/
def State.commit (s : State) (n : Initiator) (p : Pending) : State :=
  (s.updContext n fun c => { c with current := p.target, rebind := .none }).fillAll
    [{ slot := p.slot, outcome := .done }]

/-- The delivery of a head entry, before any commit (R92). -/
def State.handUp (s : State) (n : Initiator) (t : Tag) : State :=
  { s with
    deliveryLists := updAt s.deliveryLists n List.tail
    contexts := updAt s.contexts n fun c => { c with undelivered := c.undelivered - 1 }
    tracker := s.tracker.set t s.tracker[t].afterDelivery
    respPtr := n + 1
    upOut := some (n, s.tracker[t].response s.readStore[t]) }

/-- A binding that the delivery of the initiator's last undelivered entry commits (R66). -/
def State.commitDue (s : State) (n : Initiator) : Option Pending :=
  if s.contexts[n].undelivered = 0 then s.contexts[n].rebind.pending? else none

/-- A whole delivery: the head goes up, and a staged binding commits in the same step when the undelivered
count reaches 0 (R66, R92). -/
def State.deliverHead (s : State) (n : Initiator) (t : Tag) : State :=
  let s' := s.handUp n t
  match s'.commitDue n with
  | some p => s'.commit n p
  | none => s'

/-- The arbiter's choice and the delivery it grants (R89). With no candidate nothing is granted and the
pointer stays. -/
def State.deliverOne (s : State) (accepting : BitVec 8) : State :=
  match s.grantedResponse accepting with
  | some n =>
    match s.deliveryLists[n] with
    | t :: _ => s.deliverHead n t
    | [] => s
  | none => s

/-- The delivery the arbiter grants is one that commits a staged binding: the initiator's last undelivered
entry, under STAGED or FENCING (R66). -/
def State.grantCommits (s : State) (accepting : BitVec 8) : Bool :=
  match s.grantedResponse accepting with
  | some n => decide (s.contexts[n].undelivered = 1) && s.contexts[n].rebind.pending?.isSome
  | none => false

/-! ### Drain timers -/

/-- A drain timer that expired at the tick: STAGED becomes FENCING (R68). -/
def Rebind.expire : Rebind → Rebind
  | .staged p => if p.due then .fencing { p with due := false } else .staged p
  | r => r

/-- The FENCE_BEGUN record of a context whose drain timer expired at the tick (R68). -/
def fenceEvent (cs : Vector Context 8) (n : Initiator) : Option Event :=
  match cs[n].rebind with
  | .staged p => if p.due then some (fenceBegun n p) else none
  | _ => none

/-- The drain timers that expired at the tick take effect, in ascending initiator order (R68). -/
def State.expireDrains (s : State) : State :=
  { s with contexts := s.contexts.map fun (c : Context) => { c with rebind := c.rebind.expire } }.logAll
    ((List.finRange 8).filterMap (fenceEvent s.contexts))

/-- A running drain timer at a tick (R68): it expires in STAGED, and only counts in FENCING. -/
def Rebind.tick (deadline : Nat) : Rebind → Rebind
  | .none => .none
  | .staged p => .staged { p with elapsed := advance p.elapsed, due := decide (deadline ≤ advance p.elapsed) }
  | .fencing p => .fencing { p with elapsed := advance p.elapsed }

/-! ### Meanings -/

/-- DELIVERY (R92). -/
def execDelivery (accepting : BitVec 8) (s : State) : Host.Outcome State Fault Refusal :=
  whenOutOfReset s fun s => s.deliverOne accepting

/-- STAGED_COMMIT (R66): the delivery, when the one granted commits a staged binding; the commit has no
step of its own, so with any other grant the event does not occur (log entry 3). -/
def execStagedCommit (accepting : BitVec 8) (s : State) : Host.Outcome State Fault Refusal :=
  whenOutOfReset s fun s => if s.grantCommits accepting then s.deliverOne accepting else s

/-- DRAIN_TIMER_EXPIRY (R68). -/
def execDrainTimerExpiry (s : State) : Host.Outcome State Fault Refusal :=
  whenOutOfReset s State.expireDrains

end Sys2Proof.Machine
end

