-- ==== Sys2Proof/Machine/Link.lean ====
section
/-! DEFINITION. Chapter 10's sessions, edge by edge: commands COMMAND_FRAME, FETCH_SELECT and FETCH_END. Each
drives the edges of the wires that are its own, so that a session may be spread over several commands with
other events between them (log entry 7). -/

namespace Sys2Proof.Machine

/-! ### Verdicts -/

/-- The verdict on a session's bytes and, where it is ACCEPTED, the frame (R173, R186). -/
inductive Judged
  | dropped (v : Verdict)
  | accepted (f : Frame)

/-- Tests 4 to 6 on a complete frame whose CRC matches (R173). -/
def judgeCode (queueLength : Nat) (bytes : List Byte) : Judged :=
  match commandOf (byteAt bytes 2) with
  | none => .dropped .unknownCommand
  | some c =>
    if (byteAt bytes 3).toNat ≠ c.payloadLength then .dropped .badLength
    else if Config.queueDepth ≤ queueLength then .dropped .queueFull
    else .accepted ⟨byteAt bytes 1, c, (bytes.drop 4).take c.payloadLength⟩

/-- The tests of R173 in order on the bytes clocked in a session. The CRC is the byte at position 4 plus the
payload length byte, and bytes after it are ignored (R186). -/
def judgeFrame (queueLength : Nat) (bytes : List Byte) : Judged :=
  let n := (byteAt bytes 3).toNat
  if byteAt bytes 0 ≠ commandType then .dropped .unknownCommand
  else if bytes.length < 4 ∨ bytes.length < 5 + n then .dropped .badLength
  else if byteAt bytes (4 + n) ≠ crc8 (bytes.take (4 + n)) then .dropped .badCrc
  else judgeCode queueLength bytes

/-- The verdict that becomes the last verdict. -/
def Judged.verdict : Judged → Verdict
  | .dropped v => v
  | .accepted _ => .accepted

/-- What joins the tail of the command queue. -/
def Judged.joins : Judged → List Frame
  | .dropped _ => []
  | .accepted f => [f]

/-! ### Bytes on the wires (R171) -/

/-- The bits of a byte, most significant first. -/
def byteBits (b : Byte) : List Bool :=
  (List.range 8).map b.getMsbD

/-- The byte that eight bits make, most significant first. -/
def byteOfBits (bits : List Bool) : Byte :=
  bits.foldl (fun acc b => acc <<< 1 ||| (if b then 1#8 else 0#8)) 0#8

/-- One SCLK period with a level of MOSI. -/
def bitEdges (b : Bool) : List SpiEdge :=
  [.sclkRise b, .sclkFall]

/-- The eight SCLK periods of a byte. -/
def byteEdges (b : Byte) : List SpiEdge :=
  (byteBits b).flatMap bitEdges

/-! ### What is shifted out -/

/-- The bytes of the selected frame (R175). -/
def State.selectedBytes (s : State) (selected : Option RespIx) : List Byte :=
  match selected with
  | none => emptyFrame
  | some k =>
    match s.bank.slots[k] with
    | .filled f => f.bytes
    | _ => emptyFrame

/-- The byte that begins to shift in a session: of a FETCH, after its type byte, the next byte of the selected
frame, zero after its last (R175); otherwise a status byte, of the state as it stands (R171, R172). -/
def State.nextByte (s : State) : SessionKind → Byte
  | .fetch selected clocked => (s.selectedBytes selected).getD clocked 0#8
  | .untyped => s.statusByte
  | .command _ => s.statusByte
  | .ignored => s.statusByte

/-- What a session is once a byte of it is complete (R171, R175): the type byte makes it a FETCH, with the head
of the fill order or the EMPTY frame selected, or a session that R173 judges. -/
def State.afterByte (s : State) (b : Byte) : SessionKind → SessionKind
  | .untyped => if b = fetchType then .fetch s.bank.order.head? 0 else .command [b]
  | .command bytes => .command (bytes ++ [b])
  | .fetch selected clocked => .fetch selected (clocked + 1)
  | .ignored => .ignored

/-! ### The four edges out of reset -/

/-- CS falls (R171): a session begins, and the first bit of its first status byte is on MISO. -/
def State.csFalls (s : State) : State :=
  { s with session := some ⟨.untyped, false, [], s.statusByte, s.statusByte.getMsbD 0⟩, miso := [] }

/-- SCLK rises (R171): MOSI is sampled, and the host reads MISO. The eighth bit completes the byte. -/
def State.sclkRises (s : State) (a : Session) (mosi : Bool) : State :=
  let bits := a.bits ++ [mosi]
  let a' : Session :=
    match a.kind with
    | .ignored => { a with sclk := true }
    | kind =>
      if 8 ≤ bits.length then { a with kind := s.afterByte (byteOfBits bits) kind, sclk := true, bits := [] }
      else { a with sclk := true, bits := bits }
  { s with session := some a', miso := s.miso ++ [a.pin] }

/-- SCLK falls (R171): MISO is given the next bit. After a byte's eighth bit the next byte begins to shift
here. In an ignored session the bit is a free value (log entry 6). -/
def State.sclkFalls (s : State) (a : Session) : State :=
  match a.kind with
  | .ignored =>
    { s with
      session := some { a with sclk := false, pin := Config.freeBit s.freeDraws }
      freeDraws := s.freeDraws + 1 }
  | kind =>
    let out := if a.bits.isEmpty then s.nextByte kind else a.out
    { s with session := some { a with sclk := false, out := out, pin := out.getMsbD a.bits.length } }

/-- A filled slot whose frame was clocked out whole is emptied and leaves the fill order; any other slot
stays as it is (R176). -/
def SlotBank.release (b : SlotBank) (k : RespIx) (clocked : Nat) : SlotBank :=
  match b.slots[k] with
  | .filled f =>
    if f.bytes.length ≤ clocked then { slots := b.slots.set k .empty, order := b.order.erase k } else b
  | _ => b

/-- The judgement at a session's end (R173): the verdict is kept and an ACCEPTED frame joins the queue. -/
def State.endCommand (s : State) (bytes : List Byte) : State :=
  let j := judgeFrame s.queue.length bytes
  { s with verdict := j.verdict, queue := s.queue ++ j.joins }

/-- CS rises (R171): the session ends, by its type. With no complete byte it has none and changes nothing; a
frame is judged (R173); a slot clocked out whole is emptied (R176); an ignored session had no effect
(R184). -/
def State.csRises (s : State) (a : Session) : State :=
  let t := { s with session := none }
  match a.kind with
  | .untyped => t
  | .ignored => t
  | .command bytes => t.endCommand bytes
  | .fetch none _ => t
  | .fetch (some k) clocked => { t with bank := t.bank.release k clocked }

/-! ### Edges in any state -/

/-- What is left of a session when RESETN falls in it: CS and SCLK as they are, MISO at zero (R184). -/
def Session.abandon (a : Session) : Session where
  kind := .ignored
  sclk := a.sclk
  bits := []
  out := 0#8
  pin := false

/-- An edge that the link serves. One that the wires cannot show in this state changes nothing (log entry
2). -/
def State.servedEdge (s : State) : SpiEdge → State
  | .csFall => match s.session with | none => s.csFalls | some _ => s
  | .sclkRise mosi => match s.session with | none => s | some a => if a.sclk then s else s.sclkRises a mosi
  | .sclkFall => match s.session with | none => s | some a => if a.sclk then s.sclkFalls a else s
  | .csRise => match s.session with | none => s | some a => s.csRises a

/-- An edge while RESETN is low (R184): no session is served and MISO shifts zeros. A session that begins here
is one whose CS fell before the release. -/
def State.resetEdge (s : State) : SpiEdge → State
  | .csFall =>
    match s.session with
    | none => { s with session := some ⟨.ignored, false, [], 0#8, false⟩, miso := [] }
    | some _ => s
  | .sclkRise _ =>
    match s.session with
    | none => s
    | some a =>
      if a.sclk then s else { s with session := some { a.abandon with sclk := true }, miso := s.miso ++ [false] }
  | .sclkFall =>
    match s.session with
    | none => s
    | some a => if a.sclk then { s with session := some { a.abandon with sclk := false } } else s
  | .csRise => { s with session := none }

/-- An edge on the wires of the link. -/
def State.spiEdge (s : State) (e : SpiEdge) : State :=
  if s.resetn then s.servedEdge e else s.resetEdge e

/-- The edges drive the link one after another, up to the first that is not the command's own. -/
def runEdges (own : State → SpiEdge → Bool) : List SpiEdge → State → State
  | [], s => s
  | e :: rest, s => if own s e then runEdges own rest (s.spiEdge e) else s

/-! ### Whose edge it is -/

/-- The edge completes a type byte that names FETCH: the event of FETCH_SELECT (R175). -/
def Session.completesFetchType (a : Session) : SpiEdge → Bool
  | .sclkRise mosi => a.kind == .untyped && !a.sclk && a.bits ++ [mosi] == byteBits fetchType
  | _ => false

/-- Edges of COMMAND_FRAME: all outside a FETCH, but the one that makes the session a FETCH. -/
def State.ownsCommand (s : State) (e : SpiEdge) : Bool :=
  match s.session with
  | none => true
  | some a =>
    match a.kind with
    | .fetch _ _ => false
    | _ => !a.completesFetchType e

/-- Edges of FETCH_END: those of a FETCH after its type byte; the wires of an ignored session carry them
without effect. -/
def State.ownsFetch (s : State) (_ : SpiEdge) : Bool :=
  match s.session with
  | none => false
  | some a =>
    match a.kind with
    | .fetch _ _ => true
    | .ignored => true
    | _ => false

/-- What is left of a FETCH type byte on the wires, from where the session stands up to the rising edge that
completes it. None is left where the session is typed already, or its bits are no part of that byte. -/
def State.typeEdges (s : State) : List SpiEdge :=
  match s.session with
  | none => .csFall :: (byteEdges fetchType).dropLast
  | some a =>
    let rest := (((byteBits fetchType).drop a.bits.length).flatMap bitEdges).dropLast
    match a.kind with
    | .command _ => []
    | .fetch _ _ => []
    | _ => if a.bits.isPrefixOf (byteBits fetchType) then (if a.sclk then .sclkFall :: rest else rest) else []

/-! ### Meanings -/

/-- COMMAND_FRAME (R171, R173). -/
def execCommandFrame (edges : List SpiEdge) (s : State) : Host.Outcome State Fault Refusal :=
  .next (runEdges State.ownsCommand edges s)

/-- FETCH_SELECT (R175): the rest of the type byte is clocked, up to its eighth bit. -/
def execFetchSelect (s : State) : Host.Outcome State Fault Refusal :=
  .next (runEdges (fun _ _ => true) s.typeEdges s)

/-- FETCH_END (R171, R176). -/
def execFetchEnd (edges : List SpiEdge) (s : State) : Host.Outcome State Fault Refusal :=
  .next (runEdges State.ownsFetch edges s)

end Sys2Proof.Machine
end

