-- ==== Sys2Proof/Machine/MemoryPort.lean ====
section
/-! DEFINITION. Chapter 5: sending, response matching, timeouts, the reset of the downstream side.
Commands DOWNSTREAM_ACCEPT, DOWNSTREAM_RESPONSE, RESPONSE_TIMEOUT, HOLD_END, PORT_READY and
RESET_MEMORY_PORT. -/

namespace Sys2Proof.Machine

/-! ### Sending -/

/-- The effective offset of a window; a FREE slot, which no QUEUED entry names (R19), has none. -/
def WindowSlot.offset (v : WindowSlot) : Int :=
  match v.occ.window? with
  | some w => w.offset
  | none => 0

/-- The translated address: initiator-side address plus effective offset, a 40-bit result (R18, R103). -/
def State.translate (s : State) (x : Txn) : Addr :=
  BitVec.ofInt 40 ((x.addr.toNat : Int) + s.windows[x.window].offset)

/-- The request the port offers: in READY, the entry at the head of the forward order (R103). -/
def State.offered (s : State) : Option DnRequest :=
  match s.port, s.forward with
  | .ready, t :: _ =>
    match s.tracker[t] with
    | .queued x data => some ⟨t, x.kind, s.translate x, x.len, data⟩
    | _ => none
  | _, _ => none

/-- The downstream side takes the request offered: the tag leaves the forward order, the entry becomes
ISSUED with its response timer at 0, and its write data is released (R104). -/
def State.issue (s : State) : State :=
  match s.offered, s.forward with
  | some q, t :: rest =>
    match s.tracker[t] with
    | .queued x _ => { s with tracker := s.tracker.set t (.issued x 0 false), forward := rest, dnOut := some q }
    | _ => s
  | _, _ => s

/-! ### Responses -/

/-- The record of a port event at an entry (R111). -/
def portEvent (kind : EventKind) (t : Tag) (x : Txn) : Event where
  kind := kind
  desc :=
    { initiator := some x.initiator, window := some x.window, access := some x.kind, addr := some x.addr,
      len := some x.len, tag := some t }

/-- The record of a stray: the response's tag alone (R111). -/
def strayEvent (t : Tag) : Event where
  kind := .strayResponse
  desc := { tag := some t }

/-- A response counts as OK: its status is OK and, for a READ, its data holds the entry's beats (R105). -/
def responseOk (x : Txn) (status : DnStatus) (data : List Beat) : Bool :=
  status == .ok && (x.kind == .write || data.length == beatCount x.len)

/-- The read data fills the slot's first beats; the beats beyond are not written (R84). -/
def writeBeats (slot : Vector Beat 16) (data : List Beat) : Vector Beat 16 :=
  Vector.ofFn fun k => data.getD k.val slot[k]

/-- A timely response (R106). -/
def State.timely (s : State) (t : Tag) (x : Txn) (status : DnStatus) (data : List Beat) : State :=
  let ok := responseOk x status data
  let s' := (s.setEntry t (.done x (if ok then .okay else .memoryError))).releaseWindow x.window
  let s'' :=
    if ok && x.kind == .read then { s' with readStore := updAt s'.readStore t (writeBeats · data) } else s'
  if ok then s'' else s''.logAll [portEvent .memoryError t x]

/-- A late response, the entry becoming `after` (R107). -/
def State.late (s : State) (t : Tag) (x : Txn) (after : Entry) : State :=
  ((s.setEntry t after).releaseWindow x.window).logAll [portEvent .lateResponse t x]

/-- A downstream response, by the state of the entry its tag names (R105 to R108); discarded without a
record while the port is RESETTING (R114). -/
def State.respond (s : State) (t : Tag) (status : DnStatus) (data : List Beat) : State :=
  if s.port = .ready then
    match s.tracker[t] with
    | .issued x _ _ => s.timely t x status data
    | .expired x true => s.late t x (.expired x false)
    | .orphaned x => s.late t x .free
    | _ => s.logAll [strayEvent t]
  else s

/-! ### Response timers -/

/-- An entry whose response timer expired at the tick becomes EXPIRED with late-pending set (R110). -/
def Entry.expire : Entry → Entry
  | .issued x _ true => .expired x true
  | e => e

/-- The RESPONSE_TIMEOUT record of an entry whose timer expired at the tick (R110). -/
def timeoutEvent (tr : Vector Entry 32) (t : Tag) : Option Event :=
  match tr[t] with
  | .issued x _ true => some (portEvent .responseTimeout t x)
  | _ => none

/-- The response timers that expired at the tick take effect, in ascending tag order (R110). -/
def State.expireResponses (s : State) : State :=
  { s with tracker := s.tracker.map Entry.expire }.logAll
    ((List.finRange 32).filterMap (timeoutEvent s.tracker))

/-- A running response timer at a tick (R109). -/
def Entry.tick (setting : Nat) : Entry → Entry
  | .issued x elapsed _ => .issued x (advance elapsed) (expires setting (advance elapsed))
  | e => e

/-! ### Memory port reset -/

/-- What the start of a memory port reset makes of an entry (R113). -/
def Entry.portReset : Entry → Entry
  | .queued x _ => .done x .portReset
  | .issued x _ _ => .done x .portReset
  | .expired x _ => .expired x false
  | .orphaned _ => .free
  | e => e

/-- The start of a reset (R113): the port HOLDING at 0, every owed entry resolved, the forward order empty,
each window's count lowered once for each entry released. -/
def State.startReset (s : State) : State :=
  { s with
    port := .holding 0
    forward := []
    tracker := s.tracker.map Entry.portReset
    windows := Vector.ofFn fun i => s.windows[i].mapWindow (subInFlight (heldBy s.tracker i)) }

/-- The port becomes READY: the waiting reset commands are filled DONE in the order they joined (R114). -/
def State.becomeReady (s : State) : State :=
  { s with port := .ready, waitingResets := [] }.fillAll
    (s.waitingResets.map fun k => { slot := k, outcome := .done })

/-- The 16th tick of the hold takes effect (R114): the reset output is released, and with the ready input
already high the port becomes READY. -/
def State.endHold (s : State) (dnReady : Bool) : State :=
  match s.port with
  | .holding c =>
    if Config.holdTicks ≤ c then
      let s' := { s with port := .awaitingReady }
      if dnReady then s'.becomeReady else s'
    else s
  | _ => s

/-- The hold count at a tick (R114). -/
def PortState.tick : PortState → PortState
  | .holding c => .holding (min Config.holdTicks (c + 1))
  | p => p

/-! ### Meanings -/

/-- DOWNSTREAM_ACCEPT (R104). With nothing offered there is nothing to take. -/
def execDownstreamAccept (s : State) : Host.Outcome State Fault Refusal :=
  whenOutOfReset s State.issue

/-- DOWNSTREAM_RESPONSE (R105). -/
def execDownstreamResponse (t : Tag) (status : DnStatus) (data : List Beat) (s : State) :
    Host.Outcome State Fault Refusal :=
  whenOutOfReset s fun s => s.respond t status data

/-- RESPONSE_TIMEOUT (R110). -/
def execResponseTimeout (s : State) : Host.Outcome State Fault Refusal :=
  whenOutOfReset s State.expireResponses

/-- HOLD_END (R114). -/
def execHoldEnd (dnReady : Bool) (s : State) : Host.Outcome State Fault Refusal :=
  whenOutOfReset s fun s => s.endHold dnReady

/-- PORT_READY (R114): DNREADY is consulted in AWAITING_READY alone (R100). -/
def execPortReady (s : State) : Host.Outcome State Fault Refusal :=
  whenOutOfReset s fun s => if s.port = .awaitingReady then s.becomeReady else s

/-- RESET_MEMORY_PORT's execution (R112): start a reset, or join the one running; the reserved slot waits. -/
def resetPortBody (k : RespIx) (_payload : List Byte) (s : State) : State :=
  let s' := if s.port = .ready then s.startReset else s
  { s' with waitingResets := s'.waitingResets ++ [k] }

/-- RESET_MEMORY_PORT (R112, R179). -/
def execResetMemoryPort (s : State) : Host.Outcome State Fault Refusal :=
  runCommand .resetMemoryPort resetPortBody s

end Sys2Proof.Machine
end

