-- ==== Sys2Proof/Machine/Revocation.lean ====
section
/-! DEFINITION. Chapter 7: REVOKE, absorption, the drain test and the free, stall notices. Commands REVOKE,
SUBTREE_FREE and STALL_TIMER_EXPIRY. -/

namespace Sys2Proof.Machine

/-! ### Acceptance -/

/-- What acceptance makes of slot `i` (R140): a LIVE window of the subtree becomes REVOKING, and every
window of it takes the new entry as its covering revocation. -/
def markSlot (m : BitVec 64) (root : SlotIx) (i : SlotIx) (v : WindowSlot) : WindowSlot :=
  if m.getLsbD i.val then
    match v.occ with
    | .free => v
    | .live w => { v with occ := .revoking w root }
    | .revoking w _ => { v with occ := .revoking w root }
  else v

/-- The handle names a window of the set. -/
def inSet (m : BitVec 64) (h : Option Handle) : Bool :=
  match h with
  | some h => m.getLsbD h.index.val
  | none => false

/-- The pending binding that acceptance discards: a handle naming a window of the subtree (R72). -/
def Context.discarded (m : BitVec 64) (c : Context) : Option Pending :=
  match c.rebind.pending? with
  | some p => if inSet m p.target then some p else none
  | none => none

/-- A context after acceptance (R72): a current default in the subtree is cleared, a pending one in it is
discarded. -/
def Context.afterRevoke (m : BitVec 64) (c : Context) : Context :=
  { c with
    current := if inSet m c.current then none else c.current
    rebind := if (c.discarded m).isSome then .none else c.rebind }

/-- The DEFAULT_CLEARED record of a context whose current default acceptance clears (R141). -/
def clearedEvent (m : BitVec 64) (cs : Vector Context 8) (n : Initiator) : Option Event :=
  if inSet m cs[n].current then
    some
      { kind := .defaultCleared
        desc :=
          { initiator := some n, window := cs[n].current.map Handle.index, handle := cs[n].current } }
  else none

/-- The DISCARDED fill of a context whose binding acceptance discards (R72, R141). -/
def discardFill (m : BitVec 64) (cs : Vector Context 8) (n : Initiator) : Option Fill :=
  (cs[n].discarded m).map fun p => { slot := p.slot, outcome := .discarded }

/-- The list entries acceptance absorbs: those whose root lies in the subtree (R142). -/
def RevEntry.absorbedBy (m : BitVec 64) (e : RevEntry) : Bool :=
  m.getLsbD e.root.index.val

/-- Absorbed responses in order: for each absorbed entry, oldest first, its absorbed responses and then its
own (R142). -/
def absorbedSlots (es : List RevEntry) : List RespIx :=
  es.flatMap fun e => e.absorbed ++ [e.own]

/-- The list after acceptance: the absorbed entries leave, the new one joins the tail with its stall timer
at 0 (R142, R143). -/
def acceptInto (revs : List RevEntry) (m : BitVec 64) (root : Handle) (k : RespIx) : List RevEntry :=
  revs.filter (fun e => !e.absorbedBy m) ++
    [{ root := root
       own := k
       absorbed := absorbedSlots (revs.filter (RevEntry.absorbedBy m))
       stall := .running 0 false
       noticeGiven := false }]

/-- The acceptance step (R140 to R143). -/
def State.acceptRevoke (s : State) (root : Handle) (k : RespIx) : State :=
  let m := subtreeOf s.windows root.index
  ({ s with
      windows := Vector.ofFn fun i => markSlot m root.index i s.windows[i]
      contexts := s.contexts.map (Context.afterRevoke m)
      revocations := acceptInto s.revocations m root k }.logAll
    ((List.finRange 8).filterMap (clearedEvent m s.contexts))).fillAll
    ((List.finRange 8).filterMap (discardFill m s.contexts))

/-- The list has room for the new entry after absorption: L − A + 1 is at most 4 (R139). -/
def State.revocationRoom (s : State) (root : SlotIx) : Bool :=
  decide
    ((s.revocations.filter fun e => !e.absorbedBy (subtreeOf s.windows root)).length + 1
      ≤ Config.revocationDepth)

/-- REVOKE's checks in order (R138): the handle to revoke, or the first failing outcome. -/
def revokeChecks (s : State) (h : Option Handle) : Except CmdOutcome Handle :=
  match h with
  | none => .error .staleHandle
  | some h =>
    if !s.validHandle h then .error .staleHandle
    else if h.index = 0 then .error .rootProtected
    else if s.windows[h.index].isRevoking then .error .alreadyRevoking
    else if !s.revocationRoom h.index then .error .queueFull
    else .ok h

/-- REVOKE's execution (R138): a failing outcome at once, or acceptance with the slot left reserved. -/
def revokeBody (k : RespIx) (p : List Byte) (s : State) : State :=
  match revokeChecks s (handleAt p 0) with
  | .error o => s.answer k o
  | .ok h => s.acceptRevoke h k

/-! ### Free -/

/-- The generation a free leaves: one more, wrapping from 255 to 0 (R7, R25). -/
def freeSlot (v : WindowSlot) : WindowSlot :=
  { gen := v.gen + 1#8, occ := .free }

/-- A slot after the free of the entry with root `root` (R25, R146): a covered slot becomes FREE, and the
root's index leaves its parent's children set. -/
def freedSlot (t : Vector WindowSlot 64) (root : SlotIx) (i : SlotIx) : WindowSlot :=
  if t[i].coveredBy root then freeSlot t[i]
  else if (t[root].occ.window?.bind Window.parent) = some i then
    t[i].mapWindow fun w => { w with children := w.children &&& ~~~slotBit root }
  else t[i]

/-- The free of an entry's subtree and its completion (R146). -/
def State.freeSubtree (s : State) (pos : Nat) (e : RevEntry) : State :=
  let freed := (coveredSlots s.windows e.root.index).length
  { s with
    windows := Vector.ofFn fun i => freedSlot s.windows e.root.index i
    revocations := s.revocations.eraseIdx pos }.fillAll
    (e.absorbed.map (Fill.mk · .revokedByAncestor []) ++ [Fill.mk e.own .done [BitVec.ofNat 8 freed]])

/-- The drain test of the list entry at a place (R145): drained, its subtree is freed in the step of the
test (R146); otherwise the test changes nothing. -/
def State.testDrain (s : State) (pos : Nat) : State :=
  match s.revocations[pos]? with
  | some e => if drainSum s.windows e.root.index = 0 then s.freeSubtree pos e else s
  | none => s

/-! ### Stall notice -/

/-- A stall timer expired at the tick (R149). -/
def RevEntry.stalled (e : RevEntry) : Bool :=
  match e.stall with
  | .running _ due => due
  | .stopped => false

/-- The expiry of an entry's stall timer: notice given, timer stopped (R149). -/
def RevEntry.giveNotice (e : RevEntry) : RevEntry :=
  if e.stalled then { e with stall := .stopped, noticeGiven := true } else e

/-- The REVOKE_STALLED record (R149). -/
def stallEvent (t : Vector WindowSlot 64) (e : RevEntry) : Event where
  kind := .revokeStalled
  desc :=
    { window := some e.root.index, handle := some e.root, inFlightTotal := some (drainSum t e.root.index) }

/-- The stall timers that expired at the tick take effect, in list order (R149). -/
def State.expireStalls (s : State) : State :=
  { s with revocations := s.revocations.map RevEntry.giveNotice }.logAll
    ((s.revocations.filter RevEntry.stalled).map (stallEvent s.windows))

/-- A running stall timer at a tick, compared while notice given is no (R149). -/
def RevEntry.tick (setting : Nat) (e : RevEntry) : RevEntry :=
  match e.stall with
  | .running elapsed _ =>
    { e with stall := .running (advance elapsed) (!e.noticeGiven && expires setting (advance elapsed)) }
  | .stopped => e

/-! ### Meanings -/

/-- REVOKE (R138, R179). -/
def execRevoke (s : State) : Host.Outcome State Fault Refusal :=
  runCommand .revoke revokeBody s

/-- SUBTREE_FREE (R145, R146). -/
def execSubtreeFree (pos : Fin 4) (s : State) : Host.Outcome State Fault Refusal :=
  whenOutOfReset s fun s => s.testDrain pos.val

/-- STALL_TIMER_EXPIRY (R149). -/
def execStallTimerExpiry (s : State) : Host.Outcome State Fault Refusal :=
  whenOutOfReset s State.expireStalls

end Sys2Proof.Machine
end

