-- ==== Sys2Proof/Machine/TimeBase.lean ====
section
/-! DEFINITION. Chapter 9's time base and R191's reset pin: commands TICK, RESETN_ASSERT and RESETN_RELEASE,
and the REFCLK period that an empty command queue lets pass. -/

namespace Sys2Proof.Machine

/-! ### Ticks -/

/-- Expiries of the last tick that have not taken effect yet do so before time goes on: they belong to that
tick (R167). Between producers the spec leaves their order open (R163); the order here is log entry 4. -/
def State.settle (s : State) : State :=
  (((s.endHold false).expireResponses).expireDrains).expireStalls

/-- The tick itself (R164, R167): the divider returns to 0, an interval of the prescale setting begins, the
counter advances, and every running timer rises by one and is compared with its setting as it stands. -/
def State.tickNow (s : State) : State :=
  { s with
    divider := 0
    interval := s.settings.prescale
    tickCount := s.tickCount + 1#32
    contexts := s.contexts.map fun (c : Context) => { c with rebind := c.rebind.tick s.settings.drainDeadline }
    tracker := s.tracker.map (Entry.tick s.settings.responseTimeout)
    revocations := s.revocations.map (RevEntry.tick s.settings.stallNotice)
    port := s.port.tick }

/-- One REFCLK period (R164): the divider counts it, and the period that completes the interval is a tick.
While RESETN is low the divider holds at 0 and no tick occurs. -/
def State.refclkPeriod (s : State) : State :=
  if s.resetn then
    let s' := s.settle
    if s'.interval ≤ s'.divider + 1 then s'.tickNow else { s' with divider := s'.divider + 1 }
  else s

/-! ### Reset -/

/-- The part with RESETN held low, whatever it held before (R191 and the reset paragraph of every chapter). A
session in progress is abandoned, its CS still low (R184). The model's own queue of waiting commands, count
of free values and record of MISO are no part of the hardware. -/
def State.assertReset (s : State) : State :=
  { State.reset with
    pending := s.pending
    session := s.session.map Session.abandon
    miso := s.miso
    freeDraws := s.freeDraws }

/-- A context at the release (R54, R55): the boot initiator comes up OPEN with current default 0/0. -/
def bootContext (bootEn : Bool) (bootId n : Initiator) : Context :=
  if bootEn && bootId == n then { resetContext with state := .opened, current := some ⟨0, 0#8⟩ }
  else resetContext

/-- The release of RESETN (R191): every block at its after-reset contents, the straps sampled (R55); a
session whose CS is already low is ignored to its end (R184). CS may have moved while RESETN was low without an
edge being commanded, so its level at this edge counts. Once released there is no release to see. -/
def State.releaseReset (s : State) (bootEn : Bool) (bootId : Initiator) (csLow : Bool) : State :=
  if s.resetn then s
  else
    { (s.resetEdge (if csLow then .csFall else .csRise)).assertReset with
      resetn := true
      contexts := Vector.ofFn (bootContext bootEn bootId) }

/-! ### Meanings -/

/-- TICK (R164): the interval in progress completes. -/
def execTick (s : State) : Host.Outcome State Fault Refusal :=
  whenOutOfReset s fun s => s.settle.tickNow

/-- RESETN_ASSERT (R191). -/
def execResetnAssert (s : State) : Host.Outcome State Fault Refusal :=
  .next s.assertReset

/-- RESETN_RELEASE (R191, R55). -/
def execResetnRelease (bootEn : Bool) (bootId : Initiator) (csLow : Bool) (s : State) :
    Host.Outcome State Fault Refusal :=
  .next (s.releaseReset bootEn bootId csLow)

end Sys2Proof.Machine
end

