-- ==== Sys2Proof/Machine/WindowCommands.lean ====
section
/-! DEFINITION. Chapter 6: commands DERIVE, SHRINK and READ_WINDOW. -/

namespace Sys2Proof.Machine

/-! ### Checks shared by DERIVE and SHRINK -/

/-- DERIVE's check 4 and SHRINK's check 4 (R122): multiples of 64, base below limit, limit at most 2^40. -/
def boundsOk (base limit : Nat) : Bool :=
  base % Config.boundGrain == 0 && limit % Config.boundGrain == 0 && decide (base < limit)
    && decide (limit ≤ Config.addressLimit)

/-- A window's base, limit, permissions and holders lie within the four values given (R11, R129). -/
def fitsWithin (w : Window) (base limit : Nat) (perms : Perms) (holders : BitVec 8) : Bool :=
  decide (base ≤ w.base) && decide (w.limit ≤ limit) && w.perms.subset perms && subsetBits w.holders holders

/-! ### DERIVE -/

/-- Check 9 (R124): absent, or a multiple of 4 KiB on a child of the root whose relocated range lies within
0 to 2^40. -/
def relocOk (parent : SlotIx) (base limit : Nat) (reloc : Option Int) : Bool :=
  match reloc with
  | none => true
  | some v =>
    decide (parent = 0) && decide (v % (Config.page : Int) = 0) && decide (0 ≤ (base : Int) + v)
      && decide ((limit : Int) + v ≤ (Config.addressLimit : Int))

/-- The new window (R125). A depth-1 window's effective offset is its relocation, or 0; deeper windows take
their parent's (R17). -/
def derivedWindow (parent : SlotIx) (pw : Window) (a : DeriveArgs) : Window where
  parent := some parent
  depth := pw.depth + 1
  base := a.base
  limit := a.limit
  perms := a.perms
  holders := a.holders
  reloc := a.reloc
  offset := if parent = 0 then a.reloc.getD 0 else pw.offset
  children := 0#64
  inFlight := 0

/-- Checks 3 to 10 against a LIVE parent (R121 to R125): the slot to allocate, or the first failing
outcome. -/
def deriveFrom (s : State) (parent : SlotIx) (pw : Window) (a : DeriveArgs) : Except CmdOutcome SlotIx :=
  if !pw.perms.derive then .error .noDerive
  else if !boundsOk a.base a.limit then .error .badBounds
  else if a.base < pw.base ∨ pw.limit < a.limit then .error .outOfParent
  else if !a.perms.subset pw.perms then .error .permNotSubset
  else if !subsetBits a.holders pw.holders then .error .holdersNotSubset
  else if Config.maxDepth ≤ pw.depth then .error .tooDeep
  else if !relocOk parent a.base a.limit a.reloc then .error .badRelocation
  else
    match s.lowestFreeSlot with
    | none => .error .tableFull
    | some i => .ok i

/-- What DERIVE's checks find: the slot to allocate, the parent's index and the parent's record. -/
structure DerivePlan where
  slot : SlotIx
  parent : SlotIx
  parentWindow : Window

/-- DERIVE's checks in order from check 1 (R120, R121). -/
def deriveChecks (s : State) (a : DeriveArgs) : Except CmdOutcome DerivePlan :=
  match a.parent with
  | none => .error .staleHandle
  | some h =>
    if !s.validHandle h then .error .staleHandle
    else
      match s.windows[h.index].occ with
      | .free => .error .staleHandle
      | .revoking _ _ => .error .windowRevoking
      | .live pw =>
        match deriveFrom s h.index pw a with
        | .error o => .error o
        | .ok i => .ok ⟨i, h.index, pw⟩

/-- The allocation (R125): the slot becomes LIVE with its generation kept, and its index joins the parent's
children set (R10). -/
def State.allocate (s : State) (plan : DerivePlan) (a : DeriveArgs) : State :=
  { s with
    windows :=
      updAt
        (updAt s.windows plan.parent
          (WindowSlot.mapWindow fun w => { w with children := w.children ||| slotBit plan.slot }))
        plan.slot fun v => { v with occ := .live (derivedWindow plan.parent plan.parentWindow a) } }

/-- DERIVE's execution (R120, R125). -/
def deriveBody (k : RespIx) (p : List Byte) (s : State) : State :=
  match deriveArgs p with
  | none => s.answer k .badArgument
  | some a =>
    match deriveChecks s a with
    | .error o => s.answer k o
    | .ok plan =>
      (s.allocate plan a).answer k .done
        [BitVec.ofNat 8 plan.slot.val, s.windows[plan.slot].gen]

/-! ### SHRINK -/

/-- Check 5 (R128): each new value within the old one. -/
def isNarrower (w : Window) (a : ShrinkArgs) : Bool :=
  decide (w.base ≤ a.base) && decide (a.limit ≤ w.limit) && a.perms.subset w.perms
    && subsetBits a.holders w.holders

/-- Check 6 (R129): every member of the children set fits the new values. -/
def childrenFit (t : Vector WindowSlot 64) (w : Window) (a : ShrinkArgs) : Bool :=
  (List.finRange 64).all fun c =>
    !w.children.getLsbD c.val ||
      match t[c].occ.window? with
      | some cw => fitsWithin cw a.base a.limit a.perms a.holders
      | none => true

/-- A context's current or pending default is the handle (R130). -/
def Context.namesDefault (c : Context) (h : Handle) : Bool :=
  c.current == some h || (match c.rebind.pending? with | some p => p.target == some h | none => false)

/-- Check 7 (R130): no removed holder has the window as a current or pending default. -/
def defaultsAllow (cs : Vector Context 8) (h : Handle) (w : Window) (a : ShrinkArgs) : Bool :=
  (List.finRange 8).all fun n =>
    !(w.holders.getLsbD n.val && !a.holders.getLsbD n.val && cs[n].namesDefault h)

/-- Checks 4 to 7 against a LIVE window (R127 to R130): the first failing outcome, if any. -/
def shrinkFails (s : State) (h : Handle) (w : Window) (a : ShrinkArgs) : Option CmdOutcome :=
  if !boundsOk a.base a.limit then some .badBounds
  else if !isNarrower w a then some .notNarrower
  else if !childrenFit s.windows w a then some .childConflict
  else if !defaultsAllow s.contexts h w a then some .defaultConflict
  else none

/-- SHRINK's checks in order from check 1 (R127): the slot to narrow, or the first failing outcome. -/
def shrinkChecks (s : State) (a : ShrinkArgs) : Except CmdOutcome SlotIx :=
  match a.handle with
  | none => .error .staleHandle
  | some h =>
    if !s.validHandle h then .error .staleHandle
    else if h.index = 0 then .error .rootProtected
    else
      match s.windows[h.index].occ with
      | .free => .error .staleHandle
      | .revoking _ _ => .error .windowRevoking
      | .live w =>
        match shrinkFails s h w a with
        | some o => .error o
        | none => .ok h.index

/-- The narrowing (R131): bounds, permissions and holders together, and nothing else of the record. -/
def narrow (a : ShrinkArgs) (w : Window) : Window :=
  { w with base := a.base, limit := a.limit, perms := a.perms, holders := a.holders }

/-- The table after a SHRINK of slot `ix` (R131). -/
def State.narrowWindow (s : State) (ix : SlotIx) (a : ShrinkArgs) : State :=
  { s with windows := updAt s.windows ix (WindowSlot.mapWindow (narrow a)) }

/-- SHRINK's execution (R127, R131). -/
def shrinkBody (k : RespIx) (p : List Byte) (s : State) : State :=
  match shrinkArgs p with
  | none => s.answer k .badArgument
  | some a =>
    match shrinkChecks s a with
    | .error o => s.answer k o
    | .ok ix => (s.narrowWindow ix a).answer k .done

/-! ### READ_WINDOW -/

/-- READ_WINDOW's execution (R135, R136). -/
def readWindowBody (k : RespIx) (p : List Byte) (s : State) : State :=
  match slotIxAt p 0 with
  | none => s.answer k .badArgument
  | some ix => s.answer k .done s.windows[ix].report

/-! ### Meanings -/

/-- DERIVE (R120, R179). -/
def execDerive (s : State) : Host.Outcome State Fault Refusal :=
  runCommand .derive deriveBody s

/-- SHRINK (R127, R179). -/
def execShrink (s : State) : Host.Outcome State Fault Refusal :=
  runCommand .shrink shrinkBody s

/-- READ_WINDOW (R135, R179). -/
def execReadWindow (s : State) : Host.Outcome State Fault Refusal :=
  runCommand .readWindow readWindowBody s

end Sys2Proof.Machine
end

