-- ==== Sys2Proof/Machine/Dispatch.lean ====
section
/-! DEFINITION. One arm for each command: the host reads this file arm by arm. -/

namespace Sys2Proof.Machine

def exec (i : Instr) (s : State) : Host.Outcome State Fault Refusal :=
  match i with
  | .resetnAssert => Sys2Proof.Machine.execResetnAssert s
  | .resetnRelease bootEn bootId csLow => Sys2Proof.Machine.execResetnRelease bootEn bootId csLow s
  | .tick => Sys2Proof.Machine.execTick s
  | .upstreamRequest n r => Sys2Proof.Machine.execUpstreamRequest n r s
  | .take => Sys2Proof.Machine.execTake s
  | .downstreamAccept => Sys2Proof.Machine.execDownstreamAccept s
  | .downstreamResponse t status data => Sys2Proof.Machine.execDownstreamResponse t status data s
  | .responseTimeout => Sys2Proof.Machine.execResponseTimeout s
  | .delivery accepting => Sys2Proof.Machine.execDelivery accepting s
  | .stagedCommit accepting => Sys2Proof.Machine.execStagedCommit accepting s
  | .drainTimerExpiry => Sys2Proof.Machine.execDrainTimerExpiry s
  | .stallTimerExpiry => Sys2Proof.Machine.execStallTimerExpiry s
  | .subtreeFree pos => Sys2Proof.Machine.execSubtreeFree pos s
  | .holdEnd dnReady => Sys2Proof.Machine.execHoldEnd dnReady s
  | .portReady => Sys2Proof.Machine.execPortReady s
  | .commandFrame edges => Sys2Proof.Machine.execCommandFrame edges s
  | .fetchSelect => Sys2Proof.Machine.execFetchSelect s
  | .fetchEnd edges => Sys2Proof.Machine.execFetchEnd edges s
  | .derive => Sys2Proof.Machine.execDerive s
  | .shrink => Sys2Proof.Machine.execShrink s
  | .revoke => Sys2Proof.Machine.execRevoke s
  | .bindDefault => Sys2Proof.Machine.execBindDefault s
  | .setInitiator => Sys2Proof.Machine.execSetInitiator s
  | .resetMemoryPort => Sys2Proof.Machine.execResetMemoryPort s
  | .setControl => Sys2Proof.Machine.execSetControl s
  | .readWindow => Sys2Proof.Machine.execReadWindow s
  | .readInitiator => Sys2Proof.Machine.execReadInitiator s
  | .readEvent => Sys2Proof.Machine.execReadEvent s
  | .readStatus => Sys2Proof.Machine.execReadStatus s

end Sys2Proof.Machine
end

