-- ==== Sys2Proof/Safety.lean ====
section
/-! DEFINITION. The laws that a safe run keeps: one predicate for each block, gathered from the laws the
chapters state (R4, R10 to R13, R16 to R19, R24, R52, R53, R66, R73, R86, R98, R102, R112, R137, R144, R153,
R158, R167, R178, R183), and what it means for a step to be taken out of reset. -/

namespace Sys2Proof.Machine

/-! ### Steps -/

/-- `c` takes `s` to `t` with RESETN high before and after: neither the reset nor the release. -/
def StepsTo (c : Instr) (s t : State) : Prop :=
  s.resetn = true ∧ exec c s = .next t ∧ t.resetn = true

/-- Every expiry of the last tick has taken effect (log entry 4). -/
structure Settled (s : State) : Prop where
  drains : ∀ (n : Initiator) (p : Pending), s.contexts[n].rebind = .staged p → p.due = false
  responses : ∀ (t : Tag) (x : Txn) (elapsed : Nat) (due : Bool), s.tracker[t] = .issued x elapsed due → due = false
  stalls : ∀ e ∈ s.revocations, ∀ (elapsed : Nat) (due : Bool), e.stall = .running elapsed due → due = false
  hold : ∀ c, s.port = .holding c → c < Config.holdTicks

/-- The expiries that the last tick left marked take effect one kind after another: the hold, with DNREADY low,
then response, drain and stall timers (log entry 4). -/
def SettlesTo (s t : State) : Prop :=
  ∃ a b c, exec (.holdEnd false) s = .next a ∧ exec .responseTimeout a = .next b ∧
    exec .drainTimerExpiry b = .next c ∧ exec .stallTimerExpiry c = .next t

/-! ### Taking a command -/

/-- The table controller takes the frame `f` into response slot `k`: the part is out of reset, `f` heads the
command queue, and `k` is the lowest-numbered empty slot (R179). -/
structure Takes (s : State) (f : Frame) (rest : List Frame) (k : RespIx) : Prop where
  running : s.resetn = true
  head : s.queue = f :: rest
  empty : s.bank.slots[k] = .empty
  lowest : ∀ j : RespIx, j < k → s.bank.slots[j] ≠ .empty

/-- The state in which the frame has left the queue and its slot is filled with an outcome (R178, R179). -/
def State.answered (s : State) (f : Frame) (rest : List Frame) (k : RespIx) (o : CmdOutcome)
    (payload : List Byte) : State :=
  { s with
    queue := rest
    bank :=
      { slots := s.bank.slots.set k (.filled ⟨f.seq, f.code, o, payload⟩)
        order := s.bank.order ++ [k] } }

/-- The state in which the frame has left the queue and its slot stays reserved (R180). -/
def State.deferred (s : State) (f : Frame) (rest : List Frame) (k : RespIx) : State :=
  { s with queue := rest, bank := { s.bank with slots := s.bank.slots.set k (.reserved f.seq f.code) } }

/-! ### The check orders, as the tables give them -/

/-- The slot holds a LIVE window whose generation is the handle's (R6, R8). -/
def State.namesLive (s : State) (h : Handle) (w : Window) : Prop :=
  s.windows[h.index].gen = h.gen ∧ s.windows[h.index].occ = .live w

/-- The slot holds a REVOKING window whose generation is the handle's (R8). -/
def State.namesRevoking (s : State) (h : Handle) : Prop :=
  s.windows[h.index].gen = h.gen ∧ ∃ w c, s.windows[h.index].occ = .revoking w c

/-- The handle names no window: its slot is FREE or has another generation (R6). -/
def State.stale (s : State) (h : Handle) : Prop :=
  s.windows[h.index].occ = .free ∨ s.windows[h.index].gen ≠ h.gen

/-- Step 2 of admission passes: a multiple of 8 inside one 4 KiB page (R37). -/
def placed (r : Request) : Prop :=
  r.addr.toNat % 8 = 0 ∧ r.addr.toNat % 4096 + 8 * beatCount r.len ≤ 4096

/-- The window grants the access kind (R40). -/
def Window.allows (w : Window) : AccessKind → Prop
  | .read => w.perms.read = true
  | .write => w.perms.write = true

/-- The access lies within the window's bounds (R40). -/
def Window.covers (w : Window) (r : Request) : Prop :=
  w.base ≤ r.addr.toNat ∧ r.addr.toNat + 8 * beatCount r.len ≤ w.limit

/-- The window a request is judged against after steps 1 to 4: the one its handle names, or without a handle
the one its initiator's current default names (R38, R39). -/
inductive JudgedAgainst (s : State) (n : Initiator) (r : Request) : SlotIx → Window → Prop
  | byHandle (h : Handle) (w : Window) : r.handle = some h → h.index ≠ 0 → s.namesLive h w →
      w.holders.getLsbD n.val = true → JudgedAgainst s n r h.index w
  | byDefault (h : Handle) (w : Window) : r.handle = none → s.contexts[n].current = some h →
      s.namesLive h w → w.holders.getLsbD n.val = true → JudgedAgainst s n r h.index w

/-- The request passes every check, against this window (R41). -/
structure Admitted (s : State) (n : Initiator) (r : Request) (ix : SlotIx) (w : Window) : Prop where
  opened : s.contexts[n].state = .opened
  placed : placed r
  against : JudgedAgainst s n r ix w
  allows : w.allows r.kind
  covers : w.covers r

/-- The request fails its first check with this refusal kind and this window index in its record: the table
of section 2.6 and R43. -/
inductive Refused (s : State) (n : Initiator) (r : Request) : EventKind → Option SlotIx → Prop
  | closed : s.contexts[n].state = .closed → Refused s n r .closed none
  | malformed : s.contexts[n].state = .opened → ¬placed r → Refused s n r .malformed none
  | rootNamed (h : Handle) : s.contexts[n].state = .opened → placed r → r.handle = some h → h.index = 0 →
      Refused s n r .rootNamed none
  | staleHandle (h : Handle) : s.contexts[n].state = .opened → placed r → r.handle = some h → h.index ≠ 0 →
      s.stale h → Refused s n r .staleHandle none
  | revoking (h : Handle) : s.contexts[n].state = .opened → placed r → r.handle = some h → h.index ≠ 0 →
      s.namesRevoking h → Refused s n r .revoking (some h.index)
  | notHolder (h : Handle) (w : Window) : s.contexts[n].state = .opened → placed r → r.handle = some h →
      h.index ≠ 0 → s.namesLive h w → w.holders.getLsbD n.val = false →
      Refused s n r .notHolder (some h.index)
  | noDefault : s.contexts[n].state = .opened → placed r → r.handle = none → s.contexts[n].current = none →
      Refused s n r .noDefault none
  | noRead (ix : SlotIx) (w : Window) : s.contexts[n].state = .opened → placed r → JudgedAgainst s n r ix w →
      r.kind = .read → w.perms.read = false → Refused s n r .noRead (some ix)
  | noWrite (ix : SlotIx) (w : Window) : s.contexts[n].state = .opened → placed r → JudgedAgainst s n r ix w →
      r.kind = .write → w.perms.write = false → Refused s n r .noWrite (some ix)
  | outOfBounds (ix : SlotIx) (w : Window) : s.contexts[n].state = .opened → placed r →
      JudgedAgainst s n r ix w → w.allows r.kind → ¬w.covers r → Refused s n r .outOfBounds (some ix)

/-- A command's handle that fails validation: an index from 64 to 255, or a stale handle (R6). -/
def State.staleArg (s : State) (h : Option Handle) : Prop :=
  ∀ g, h = some g → s.stale g

/-- Bounds that pass check 4 of DERIVE and SHRINK (R122). -/
def goodBounds (base limit : Nat) : Prop :=
  base % 64 = 0 ∧ limit % 64 = 0 ∧ base < limit ∧ limit ≤ 1099511627776

/-- A relocation that passes check 9 of DERIVE (R124). -/
def goodReloc (parent : SlotIx) (base limit : Nat) (reloc : Option Int) : Prop :=
  ∀ v, reloc = some v →
    parent = 0 ∧ v % 4096 = 0 ∧ 0 ≤ (base : Int) + v ∧ (limit : Int) + v ≤ 1099511627776

/-- Holder sets: every initiator of `a` is one of `b`. -/
def holdersWithin (a b : BitVec 8) : Prop :=
  ∀ n : Initiator, a.getLsbD n.val = true → b.getLsbD n.val = true

/-- Permission sets: every permission of `a` is one of `b`. -/
def permsWithin (a b : Perms) : Prop :=
  (a.read = true → b.read = true) ∧ (a.write = true → b.write = true) ∧ (a.derive = true → b.derive = true)

/-- DERIVE's checks 1 to 7 pass, the parent being this LIVE window (R121 to R123). -/
structure DeriveSound (s : State) (a : DeriveArgs) (h : Handle) (w : Window) : Prop where
  parent : a.parent = some h
  live : s.namesLive h w
  derive : w.perms.derive = true
  bounds : goodBounds a.base a.limit
  within : w.base ≤ a.base ∧ a.limit ≤ w.limit
  perms : permsWithin a.perms w.perms
  holders : holdersWithin a.holders w.holders

/-- No slot among 1 to 63 is FREE (R125). -/
def State.tableFull (s : State) : Prop :=
  ∀ i : SlotIx, i ≠ 0 → s.windows[i].occ ≠ .free

/-- The table of section 6.2: the first check a DERIVE fails and its outcome. -/
inductive DeriveFails (s : State) (a : DeriveArgs) : CmdOutcome → Prop
  | staleHandle : s.staleArg a.parent → DeriveFails s a .staleHandle
  | windowRevoking (h : Handle) : a.parent = some h → s.namesRevoking h → DeriveFails s a .windowRevoking
  | noDerive (h : Handle) (w : Window) : a.parent = some h → s.namesLive h w → w.perms.derive = false →
      DeriveFails s a .noDerive
  | badBounds (h : Handle) (w : Window) : a.parent = some h → s.namesLive h w → w.perms.derive = true →
      ¬goodBounds a.base a.limit → DeriveFails s a .badBounds
  | outOfParent (h : Handle) (w : Window) : a.parent = some h → s.namesLive h w → w.perms.derive = true →
      goodBounds a.base a.limit → ¬(w.base ≤ a.base ∧ a.limit ≤ w.limit) → DeriveFails s a .outOfParent
  | permNotSubset (h : Handle) (w : Window) : a.parent = some h → s.namesLive h w → w.perms.derive = true →
      goodBounds a.base a.limit → w.base ≤ a.base ∧ a.limit ≤ w.limit → ¬permsWithin a.perms w.perms →
      DeriveFails s a .permNotSubset
  | holdersNotSubset (h : Handle) (w : Window) : a.parent = some h → s.namesLive h w → w.perms.derive = true →
      goodBounds a.base a.limit → w.base ≤ a.base ∧ a.limit ≤ w.limit → permsWithin a.perms w.perms →
      ¬holdersWithin a.holders w.holders → DeriveFails s a .holdersNotSubset
  | tooDeep (h : Handle) (w : Window) : DeriveSound s a h w → 5 ≤ w.depth → DeriveFails s a .tooDeep
  | badRelocation (h : Handle) (w : Window) : DeriveSound s a h w → w.depth < 5 →
      ¬goodReloc h.index a.base a.limit a.reloc → DeriveFails s a .badRelocation
  | tableFull (h : Handle) (w : Window) : DeriveSound s a h w → w.depth < 5 →
      goodReloc h.index a.base a.limit a.reloc → s.tableFull → DeriveFails s a .tableFull

/-- SHRINK's four values lie within the window's own (R128). -/
def ShrinkArgs.narrows (a : ShrinkArgs) (w : Window) : Prop :=
  w.base ≤ a.base ∧ a.limit ≤ w.limit ∧ permsWithin a.perms w.perms ∧ holdersWithin a.holders w.holders

/-- Every member of the children set fits the new values (R129). -/
def State.childrenStillFit (s : State) (w : Window) (a : ShrinkArgs) : Prop :=
  ∀ (i : SlotIx) (c : Window), w.children.getLsbD i.val = true → s.windows[i].occ.window? = some c →
    a.base ≤ c.base ∧ c.limit ≤ a.limit ∧ permsWithin c.perms a.perms ∧ holdersWithin c.holders a.holders

/-- No initiator that the SHRINK removes has the window as its current or pending default (R130). -/
def State.defaultsStillHeld (s : State) (h : Handle) (w : Window) (a : ShrinkArgs) : Prop :=
  ∀ n : Initiator, w.holders.getLsbD n.val = true → a.holders.getLsbD n.val = false →
    s.contexts[n].current ≠ some h ∧
      ∀ p, s.contexts[n].rebind.pending? = some p → p.target ≠ some h

/-- The table of section 6.3: the first check a SHRINK fails and its outcome. -/
inductive ShrinkFails (s : State) (a : ShrinkArgs) : CmdOutcome → Prop
  | staleHandle : s.staleArg a.handle → ShrinkFails s a .staleHandle
  | rootProtected (h : Handle) : a.handle = some h → ¬s.stale h → h.index = 0 → ShrinkFails s a .rootProtected
  | windowRevoking (h : Handle) : a.handle = some h → h.index ≠ 0 → s.namesRevoking h →
      ShrinkFails s a .windowRevoking
  | badBounds (h : Handle) (w : Window) : a.handle = some h → h.index ≠ 0 → s.namesLive h w →
      ¬goodBounds a.base a.limit → ShrinkFails s a .badBounds
  | notNarrower (h : Handle) (w : Window) : a.handle = some h → h.index ≠ 0 → s.namesLive h w →
      goodBounds a.base a.limit → ¬a.narrows w → ShrinkFails s a .notNarrower
  | childConflict (h : Handle) (w : Window) : a.handle = some h → h.index ≠ 0 → s.namesLive h w →
      goodBounds a.base a.limit → a.narrows w → ¬s.childrenStillFit w a → ShrinkFails s a .childConflict
  | defaultConflict (h : Handle) (w : Window) : a.handle = some h → h.index ≠ 0 → s.namesLive h w →
      goodBounds a.base a.limit → a.narrows w → s.childrenStillFit w a → ¬s.defaultsStillHeld h w a →
      ShrinkFails s a .defaultConflict

/-- The table of section 7.2: the first check a REVOKE fails and its outcome. Room (R139) counts the entries
left after those whose root lies in the named window's subtree are absorbed. -/
inductive RevokeFails (s : State) (arg : Option Handle) : CmdOutcome → Prop
  | staleHandle : s.staleArg arg → RevokeFails s arg .staleHandle
  | rootProtected (h : Handle) : arg = some h → ¬s.stale h → h.index = 0 → RevokeFails s arg .rootProtected
  | alreadyRevoking (h : Handle) : arg = some h → h.index ≠ 0 → s.namesRevoking h →
      RevokeFails s arg .alreadyRevoking
  | queueFull (h : Handle) (w : Window) : arg = some h → h.index ≠ 0 → s.namesLive h w →
      4 < (s.revocations.filter fun e => !(subtreeOf s.windows h.index).getLsbD e.root.index.val).length + 1 →
      RevokeFails s arg .queueFull

/-- The table of section 3.6, after the initiator number: the first check a BIND_DEFAULT fails. -/
inductive BindFails (s : State) (n : Initiator) : Binding → CmdOutcome → Prop
  | staleHandle (g : Option Handle) : s.staleArg g → BindFails s n (.handle g) .staleHandle
  | windowRevoking (h : Handle) : s.namesRevoking h → BindFails s n (.handle (some h)) .windowRevoking
  | notHolder (h : Handle) (w : Window) : s.namesLive h w → w.holders.getLsbD n.val = false →
      BindFails s n (.handle (some h)) .notHolder

/-- A binding that passes those checks, and what it would make the default. -/
inductive BindPasses (s : State) (n : Initiator) : Binding → Option Handle → Prop
  | clear : BindPasses s n .clear none
  | handle (h : Handle) (w : Window) : s.namesLive h w → w.holders.getLsbD n.val = true →
      BindPasses s n (.handle (some h)) (some h)

/-! ### The management link -/

/-- The table of section 10.2: the first test that a session's bytes fail and its verdict. A frame is complete
when the header's four bytes, the payload its length byte gives and the CRC were clocked (R173). -/
inductive FrameFails (queued : Nat) (bytes : List Byte) : Verdict → Prop
  | notCommand : bytes.head? ≠ some commandType → FrameFails queued bytes .unknownCommand
  | incomplete : bytes.head? = some commandType → bytes.length < 4 ∨ bytes.length < 5 + (byteAt bytes 3).toNat →
      FrameFails queued bytes .badLength
  | badCrc (n : Nat) : bytes.head? = some commandType → n = (byteAt bytes 3).toNat → 5 + n ≤ bytes.length →
      byteAt bytes (4 + n) ≠ crc8 (bytes.take (4 + n)) → FrameFails queued bytes .badCrc
  | noCommand (n : Nat) : bytes.head? = some commandType → n = (byteAt bytes 3).toNat → 5 + n ≤ bytes.length →
      byteAt bytes (4 + n) = crc8 (bytes.take (4 + n)) → (∀ c : CommandCode, byteAt bytes 2 ≠ c.toByte) →
      FrameFails queued bytes .unknownCommand
  | badLength (n : Nat) (c : CommandCode) : bytes.head? = some commandType → n = (byteAt bytes 3).toNat →
      5 + n ≤ bytes.length → byteAt bytes (4 + n) = crc8 (bytes.take (4 + n)) → byteAt bytes 2 = c.toByte →
      n ≠ c.payloadLength → FrameFails queued bytes .badLength
  | queueFull (n : Nat) (c : CommandCode) : bytes.head? = some commandType → n = (byteAt bytes 3).toNat →
      5 + n ≤ bytes.length → byteAt bytes (4 + n) = crc8 (bytes.take (4 + n)) → byteAt bytes 2 = c.toByte →
      n = c.payloadLength → 4 ≤ queued → FrameFails queued bytes .queueFull

/-- The command of this model's queue that executes frames of a code. -/
def tableCommand : CommandCode → Instr
  | .derive => .derive
  | .shrink => .shrink
  | .revoke => .revoke
  | .bindDefault => .bindDefault
  | .setInitiator => .setInitiator
  | .resetMemoryPort => .resetMemoryPort
  | .setControl => .setControl
  | .readWindow => .readWindow
  | .readInitiator => .readInitiator
  | .readEvent => .readEvent
  | .readStatus => .readStatus

/-- SCLK's rising edges among some edges: the bits clocked in them. -/
def risingEdges (edges : List SpiEdge) : Nat :=
  edges.countP fun e => match e with | .sclkRise _ => true | _ => false

/-- A session between edges: fewer than eight bits of the byte in progress; MISO shows the bit of the byte
shifted that comes next; a type that its type byte gave it; while RESETN is low, abandoned (R171, R173,
R184). -/
structure Session.Sound (a : Session) (resetn : Bool) : Prop where
  partial_byte : a.bits.length < 8
  shifting : a.kind ≠ .ignored → a.sclk = false → a.pin = a.out.getMsbD a.bits.length
  untyped : a.kind = .untyped → a.sclk = true → a.bits ≠ []
  typed : ∀ bytes, a.kind = .command bytes → ∃ b others, bytes = b :: others ∧ b ≠ fetchType
  abandoned : resetn = false → a.kind = .ignored

/-- The fill order lists the filled slots, each once, and a FETCH in progress has selected its head; the
command queue holds at most 4 frames, each with the payload its code requires; and the session in progress
is sound (R171, R173, R175, R177, R178, R184). -/
structure LinkLaw (s : State) : Prop where
  order_nodup : s.bank.order.Nodup
  order_filled : ∀ k : RespIx, k ∈ s.bank.order ↔ s.bank.slots[k].isFilled = true
  queue_bound : s.queue.length ≤ Config.queueDepth
  queue_payload : ∀ f ∈ s.queue, f.payload.length = f.code.payloadLength
  session_sound : ∀ a, s.session = some a → a.Sound s.resetn
  selected_head : ∀ (a : Session) (k : RespIx) (clocked : Nat), s.session = some a →
    a.kind = .fetch (some k) clocked → s.bank.order.head? = some k

/-- The holders of deferred commands' slots: staging commands, then the own and absorbed responses of the
revocation list, then the waiting reset commands (R180). -/
def State.slotOwners (s : State) : List RespIx :=
  (List.finRange 8).filterMap (fun n => s.contexts[n].rebind.pending?.map Pending.slot)
    ++ s.revocations.flatMap (fun e => e.own :: e.absorbed) ++ s.waitingResets

/-- Between steps, each reserved slot is held by exactly one block that will fill it, under the command it
was reserved for, and no other slot is held (R178, R180, R183). -/
structure OwnerLaw (s : State) : Prop where
  nodup : s.slotOwners.Nodup
  reserved : ∀ k : RespIx, k ∈ s.slotOwners ↔ s.bank.slots[k].isReserved = true
  staging : ∀ (n : Initiator) (p : Pending), s.contexts[n].rebind.pending? = some p →
    ∃ seq, s.bank.slots[p.slot] = .reserved seq .bindDefault
  revoking : ∀ e ∈ s.revocations, ∀ k ∈ e.own :: e.absorbed, ∃ seq, s.bank.slots[k] = .reserved seq .revoke
  resetting : ∀ k ∈ s.waitingResets, ∃ seq, s.bank.slots[k] = .reserved seq .resetMemoryPort
  idle : s.port = .ready → s.waitingResets = []

/-! ### Lanes, tracker and contexts -/

/-- The initiator of an entry that stands in a delivery list: REFUSED, QUEUED, ISSUED, DONE or EXPIRED
(R86). -/
def Entry.listedFor : Entry → Option Initiator
  | .free => none
  | .refused n _ _ => some n
  | .queued x _ => some x.initiator
  | .issued x _ _ => some x.initiator
  | .done x _ => some x.initiator
  | .expired x _ => some x.initiator
  | .orphaned _ => none

/-- The entry is QUEUED. -/
def Entry.isQueued : Entry → Bool
  | .queued _ _ => true
  | _ => false

/-- The delivery lists hold exactly the undelivered entries of their initiators, the undelivered counts are
their lengths and at most 8, a binding is pending only while its count is above 0, the forward order holds
exactly the QUEUED entries, nothing is owed downstream while the port is RESETTING, and lanes hold at most 4
complete requests (R29, R53, R66, R86, R98, R102, R113). -/
structure TrackerLaw (s : State) : Prop where
  lists_nodup : ∀ n : Initiator, s.deliveryLists[n].Nodup
  lists_member : ∀ (n : Initiator) (t : Tag), t ∈ s.deliveryLists[n] ↔ s.tracker[t].listedFor = some n
  undelivered : ∀ n : Initiator, s.contexts[n].undelivered = s.deliveryLists[n].length
  bound : ∀ n : Initiator, s.contexts[n].undelivered ≤ Config.maxUndelivered
  pending : ∀ n : Initiator, s.contexts[n].rebind.pending?.isSome = true → 0 < s.contexts[n].undelivered
  forward_nodup : s.forward.Nodup
  forward_queued : ∀ t : Tag, t ∈ s.forward ↔ s.tracker[t].isQueued = true
  resetting : s.port ≠ .ready → ∀ t : Tag, s.tracker[t].holds = none
  lanes_bound : ∀ n : Initiator, s.lanes[n].length ≤ Config.laneDepth
  lanes_complete : ∀ (n : Initiator), ∀ r ∈ s.lanes[n], r.complete = true

/-! ### Window table and revocation list -/

/-- One window is a child of another in the table (R10). -/
def childIn (t : Vector WindowSlot 64) (p i : SlotIx) : Prop :=
  t[p].children.getLsbD i.val = true

/-- How many beats of its read data slot an entry owns: those a DONE READ with OKAY will deliver (R84). -/
def Entry.ownedBeats : Entry → Nat
  | .done x .okay => if x.kind = .read then beatCount x.len else 0
  | _ => 0

/-- Two read data stores agree on every beat that an entry owns (R85). -/
def State.storesAgree (s : State) (other : Vector (Vector Beat 16) 32) : Prop :=
  ∀ (t : Tag) (k : Fin 16), k.val < s.tracker[t].ownedBeats → s.readStore[t][k] = other[t][k]

/-- Each slot's in-flight count is the number of entries that count under it; a FREE slot's is 0 (R19). -/
def CountLaw (s : State) : Prop :=
  ∀ i : SlotIx, s.windows[i].inFlight = heldBy s.tracker i

/-- Every present current default and every pending handle names a LIVE window, with its generation, of
which the initiator is a holder (R73). -/
def DefaultLaw (s : State) : Prop :=
  ∀ (n : Initiator) (h : Handle),
    (s.contexts[n].current = some h ∨ ∃ p, s.contexts[n].rebind.pending? = some p ∧ p.target = some h) →
      s.windows[h.index].gen = h.gen ∧
        ∃ w, s.windows[h.index].occ = .live w ∧ w.holders.getLsbD n.val = true

/-- `w` lies within `v` in bounds, permissions and holders (R11). -/
def Window.inside (w v : Window) : Prop :=
  v.base ≤ w.base ∧ w.limit ≤ v.limit ∧ w.perms.subset v.perms = true ∧
    subsetBits w.holders v.holders = true

/-- A window as its parent bounds it: one deeper and at most 5 deep, inside it, listed among its children,
and relocated by its own relocation below the root and by its parent's offset deeper down (R10 to R12, R16,
R17). -/
def Window.childOf (w : Window) (i p : SlotIx) (v : Window) : Prop :=
  v.children.getLsbD i.val = true ∧ w.depth = v.depth + 1 ∧ w.depth ≤ Config.maxDepth ∧ w.inside v ∧
    if p = 0 then w.offset = w.reloc.getD 0 else w.reloc = none ∧ w.offset = v.offset

/-- Bounds in place, upstream and translated (R13, R18). -/
def Window.boundsLaw (w : Window) : Prop :=
  w.base % Config.boundGrain = 0 ∧ w.limit % Config.boundGrain = 0 ∧ w.base < w.limit ∧
    w.limit ≤ Config.addressLimit ∧ w.offset % (Config.page : Int) = 0 ∧ 0 ≤ (w.base : Int) + w.offset ∧
    (w.limit : Int) + w.offset ≤ (Config.addressLimit : Int)

/-- The derivation tree and the revocation list over it (R4, R10 to R13, R16 to R18, R24, R137, R144). -/
structure WindowLaw (s : State) : Prop where
  root : s.windows[(0 : SlotIx)].gen = 0#8 ∧
    ∃ children inFlight, s.windows[(0 : SlotIx)].occ =
      .live { rootWindow with children := children, inFlight := inFlight }
  parent : ∀ (i : SlotIx) (w : Window), i ≠ 0 → s.windows[i].occ.window? = some w →
    ∃ p v, w.parent = some p ∧ s.windows[p].occ.window? = some v ∧ w.childOf i p v
  child : ∀ (p i : SlotIx) (v : Window), s.windows[p].occ.window? = some v → v.children.getLsbD i.val = true →
    i ≠ 0 ∧ ∃ w, s.windows[i].occ.window? = some w ∧ w.parent = some p
  bounds : ∀ (i : SlotIx) (w : Window), s.windows[i].occ.window? = some w → w.boundsLaw
  revoking_down : ∀ (p i c : SlotIx) (v : Window), s.windows[p].occ = .revoking v c →
    v.children.getLsbD i.val = true → ∃ w, s.windows[i].occ = .revoking w c
  revoking_up : ∀ (i c : SlotIx) (w : Window), s.windows[i].occ = .revoking w c → i ≠ c →
    ∃ p v, w.parent = some p ∧ s.windows[p].occ = .revoking v c
  covered : ∀ (i c : SlotIx) (w : Window), s.windows[i].occ = .revoking w c →
    ∃ e ∈ s.revocations, e.root.index = c
  entries : ∀ e ∈ s.revocations, s.windows[e.root.index].gen = e.root.gen ∧
    ∃ w p v, s.windows[e.root.index].occ = .revoking w e.root.index ∧ w.parent = some p ∧
      s.windows[p].occ = .live v
  roots_nodup : (s.revocations.map fun e => e.root.index).Nodup
  list_bound : s.revocations.length ≤ Config.revocationDepth

/-! ### Event log -/

/-- At most 16 records, with consecutive sequence numbers up to the next one, and counts in their ranges
(R153, R158). -/
structure LogLaw (s : State) : Prop where
  bound : s.log.records.length ≤ Config.logDepth
  consecutive : ∀ (i : Nat) (r : EventRecord), s.log.records[i]? = some r →
    r.seq + BitVec.ofNat 16 (s.log.records.length - i) = s.log.nextSeq
  repeats : ∀ r ∈ s.log.records, 1 ≤ r.repeats ∧ r.repeats ≤ Config.countMax
  drops : ∀ r ∈ s.log.records, r.drops ≤ Config.countMax

/-! ### Time base -/

/-- Settings in their ranges, the interval in progress not yet complete, and every elapsed count within its
saturation (R164, R165, R167, R168). -/
structure TimeLaw (s : State) : Prop where
  prescale : 1 ≤ s.settings.prescale ∧ s.settings.prescale ≤ 1024
  ticks16 : s.settings.drainDeadline ≤ Config.timerMax ∧ s.settings.responseTimeout ≤ Config.timerMax ∧
    s.settings.stallNotice ≤ Config.timerMax
  interval : s.interval ≤ 1024 ∧ s.divider < s.interval
  drains : ∀ (n : Initiator) (p : Pending), s.contexts[n].rebind.pending? = some p → p.elapsed ≤ Config.timerMax
  responses : ∀ (t : Tag) (x : Txn) (elapsed : Nat) (due : Bool), s.tracker[t] = .issued x elapsed due →
    elapsed ≤ Config.timerMax
  stalls : ∀ e ∈ s.revocations, ∀ (elapsed : Nat) (due : Bool), e.stall = .running elapsed due →
    elapsed ≤ Config.timerMax
  hold : ∀ c, s.port = .holding c → c ≤ Config.holdTicks

end Sys2Proof.Machine
end

