-- ==== Sys2Proof/Certificates/Slice0/Obligations.lean ====
section
/-! DEFINITION. The statements for the provers. Each docstring names the rules of spec/ it formalises, and the
log entry where a clause is the model's choice. -/

open Sys2Proof Sys2Proof.Machine

/-! ### The machine -/

/-- A step with a command at the front of the queue is `exec` of it on the state with the queue's rest. -/
def Obligations.StepRunsFrontCommand : Prop :=
  ∀ (c : Instr) (rest : List Instr) (s : State), s.pending = c :: rest →
    step s = exec c { s with pending := rest }

/-- MODEL'S CHOICE (log entry 1): on an empty queue a step is one REFCLK period. Out of reset the period
that completes the interval is the TICK, any other is counted in the divider; in reset nothing happens
(R164). MODEL'S CHOICE (log entry 4): expiries still marked take effect first, in the order of HOLD_END with
DNREADY low, RESPONSE_TIMEOUT, DRAIN_TIMER_EXPIRY and STALL_TIMER_EXPIRY, and the period is then that of the
state they leave, in which none is marked. -/
def Obligations.EmptyQueuePassesRefclkPeriod : Prop :=
  ∀ s : State, s.pending = [] →
    (s.resetn = true → ∃ t, SettlesTo s t ∧ Settled t ∧ t.resetn = true ∧ t.pending = [] ∧ step s = step t) ∧
    (s.resetn = true → Settled s → s.interval ≤ s.divider + 1 → step s = exec .tick s) ∧
    (s.resetn = true → Settled s → s.divider + 1 < s.interval →
      step s = .next { s with divider := s.divider + 1 }) ∧
    (s.resetn = false → step s = .next s)

/-- THE MODEL'S DEDUCTION (log entry 2): the spec describes no event that stops the part, so every command
answers a next state in every state. It leaves the model's own queue of waiting commands as it was. -/
def Obligations.CommandsAlwaysAnswerNext : Prop :=
  ∀ (c : Instr) (s : State), ∃ t, exec c s = .next t ∧ t.pending = s.pending

/-- The state after reset meets the law of every block. -/
def Obligations.ResetStateMeetsEveryLaw : Prop :=
  LinkLaw State.reset ∧ OwnerLaw State.reset ∧ TrackerLaw State.reset ∧ CountLaw State.reset ∧
    DefaultLaw State.reset ∧ WindowLaw State.reset ∧ LogLaw State.reset ∧ TimeLaw State.reset

/-! ### Laws that every step keeps -/

/-- Every step keeps the law of the management link: fill order, command queue, selected response, and the
session between two edges of its wires (R171, R173, R175 to R178, R184). -/
def Obligations.StepKeepsLinkLaw : Prop :=
  ∀ s t : State, LinkLaw s → step s = .next t → LinkLaw t

/-- Every step keeps each reserved response slot in the hands of exactly one block (R180, R183). -/
def Obligations.StepKeepsOwnerLaw : Prop :=
  ∀ s t : State, OwnerLaw s → step s = .next t → OwnerLaw t

/-- Every step keeps the law of lanes, tracker, delivery lists and forward order (R29, R53, R66, R86, R98,
R102). -/
def Obligations.StepKeepsTrackerLaw : Prop :=
  ∀ s t : State, TrackerLaw s → step s = .next t → TrackerLaw t

/-- Every step keeps each in-flight count equal to the number of entries that count under it (R19). -/
def Obligations.StepKeepsCountLaw : Prop :=
  ∀ s t : State, CountLaw s → step s = .next t → CountLaw t

/-- Every step keeps every default naming a LIVE window that its initiator holds (R73). -/
def Obligations.StepKeepsDefaultLaw : Prop :=
  ∀ s t : State, DefaultLaw s → step s = .next t → DefaultLaw t

/-- Every step keeps the derivation tree and the revocation list over it (R4, R10 to R13, R144). -/
def Obligations.StepKeepsWindowLaw : Prop :=
  ∀ s t : State, WindowLaw s → step s = .next t → WindowLaw t

/-- Every step keeps the event log's bound, consecutive sequence numbers and counts (R153, R158). -/
def Obligations.StepKeepsLogLaw : Prop :=
  ∀ s t : State, LogLaw s → step s = .next t → LogLaw t

/-- Every step keeps settings, interval and elapsed counts in their ranges (R164, R165, R167, R168). -/
def Obligations.StepKeepsTimeLaw : Prop :=
  ∀ s t : State, TimeLaw s → step s = .next t → TimeLaw t

/-! ### Reset -/

/-- RESETN_ASSERT puts every block at its reset contents, whatever it held; a session in progress is abandoned,
its CS and SCLK as they are (R30, R54, R95, R101, R137, R151, R161, R164, R169, R184). -/
def Obligations.ResetnAssertClearsEveryBlock : Prop :=
  ∀ s : State, ∃ t, exec .resetnAssert s = .next t ∧
    t.resetn = false ∧ (∀ n : Initiator, t.lanes[n] = [] ∧ t.deliveryLists[n] = []) ∧
    t.admitPtr = 0 ∧ t.respPtr = 0 ∧ (∀ τ : Tag, t.tracker[τ] = .free) ∧
    (∀ i : SlotIx, i ≠ 0 → t.windows[i] = ⟨0#8, .free⟩) ∧ t.windows[(0 : SlotIx)] = ⟨0#8, .live rootWindow⟩ ∧
    (∀ n : Initiator, t.contexts[n] = ⟨.closed, .answer, none, .none, 0⟩) ∧
    t.port = .holding 0 ∧ t.forward = [] ∧ t.waitingResets = [] ∧ t.revocations = [] ∧
    t.log = ⟨[], 0#16⟩ ∧ t.divider = 0 ∧ t.interval = 100 ∧ t.tickCount = 0#32 ∧
    t.settings = ⟨100, 1000, 4096, 8192, true, true⟩ ∧ t.verdict = .accepted ∧
    (s.session = none → t.session = none) ∧
    (∀ a, s.session = some a → t.session = some ⟨.ignored, a.sclk, [], 0#8, false⟩) ∧
    t.queue = [] ∧ (∀ k : RespIx, t.bank.slots[k] = .empty) ∧ t.bank.order = [] ∧ t.alert = false ∧
    t.dnrstnLow = true ∧ t.pending = s.pending

/-- RESETN_RELEASE with RESETN low: the boot initiator the straps name comes up OPEN with current default
0/0, the other contexts CLOSED without one, every other block at its reset contents, and a session whose CS
is already low is one to be ignored (R3, R55, R184); the zeros of the read data store, the empty output
latches, what MISO's record keeps, and that CS's level is an operand, are the model's choice (log entries 5, 9
and 11). With RESETN high already there is no release. -/
def Obligations.ResetnReleaseSamplesStraps : Prop :=
  ∀ (s : State) (bootEn csLow : Bool) (bootId : Initiator),
    (s.resetn = false → ∃ t, exec (.resetnRelease bootEn bootId csLow) s = .next t ∧
      (∀ n : Initiator, t.contexts[n] =
        if bootEn = true ∧ n = bootId then ⟨.opened, .answer, some ⟨0, 0#8⟩, .none, 0⟩
        else ⟨.closed, .answer, none, .none, 0⟩) ∧
      (csLow = false → t.session = none ∧ t.miso = s.miso) ∧
      (csLow = true → s.session = none → t.session = some ⟨.ignored, false, [], 0#8, false⟩ ∧ t.miso = []) ∧
      (csLow = true → ∀ a, s.session = some a →
        t.session = some ⟨.ignored, a.sclk, [], 0#8, false⟩ ∧ t.miso = s.miso) ∧
      t.statusByte = 0x00#8 ∧
      t = { State.reset with
            resetn := true, contexts := t.contexts, session := t.session, pending := s.pending
            miso := t.miso, freeDraws := s.freeDraws }) ∧
    (s.resetn = true → exec (.resetnRelease bootEn bootId csLow) s = .next s)

/-- While RESETN is low no command but the two of RESETN and the link's three changes anything. Those three move
the wires alone: the link serves no session, and every bit that MISO shifts is zero (R30, R90, R154, R164,
R184, R188). -/
def Obligations.NothingHappensWhileResetnLow : Prop :=
  ∀ (c : Instr) (s : State), s.resetn = false → c ≠ .resetnAssert →
    (∀ bootEn bootId csLow, c ≠ .resetnRelease bootEn bootId csLow) →
    ((∀ edges, c ≠ .commandFrame edges) → c ≠ .fetchSelect → (∀ edges, c ≠ .fetchEnd edges) →
      exec c s = .next s) ∧
    ∃ session zeros,
      (exec c s = .next { s with session := session, miso := s.miso ++ List.replicate zeros false } ∨
        exec c s = .next { s with session := session, miso := List.replicate zeros false }) ∧
      (session = s.session ∨ session = none ∨ ∃ a, session = some a ∧ a.kind = .ignored)

/-! ### Time -/

/-- TICK: the divider returns to 0, the new interval has the prescale setting's length, the counter advances,
and every running timer rises by one, saturating, and is compared with its setting as it stands (R164 to
R167). MODEL'S CHOICE (log entry 4): an expired timer is marked and takes effect in its own command, and a
TICK that finds some still marked is the TICK of the state after those commands, in the order of HOLD_END with
DNREADY low, RESPONSE_TIMEOUT, DRAIN_TIMER_EXPIRY and STALL_TIMER_EXPIRY. -/
def Obligations.TickAdvancesTimeAndTimers : Prop :=
  (∀ s : State, s.resetn = true →
    ∃ t, SettlesTo s t ∧ Settled t ∧ t.resetn = true ∧ exec .tick s = exec .tick t) ∧
  ∀ s : State, s.resetn = true → Settled s → ∃ t, exec .tick s = .next t ∧
    t = { s with
          divider := 0, interval := s.settings.prescale, tickCount := s.tickCount + 1#32
          contexts := t.contexts, tracker := t.tracker, revocations := t.revocations, port := t.port } ∧
    (∀ n : Initiator,
      t.contexts[n] = { s.contexts[n] with rebind := t.contexts[n].rebind } ∧
      (s.contexts[n].rebind = .none → t.contexts[n].rebind = .none) ∧
      (∀ p, s.contexts[n].rebind = .staged p → t.contexts[n].rebind =
        .staged { p with
                  elapsed := min 65535 (p.elapsed + 1)
                  due := decide (s.settings.drainDeadline ≤ min 65535 (p.elapsed + 1)) }) ∧
      (∀ p, s.contexts[n].rebind = .fencing p → t.contexts[n].rebind =
        .fencing { p with elapsed := min 65535 (p.elapsed + 1) })) ∧
    (∀ τ : Tag,
      (∀ x e d, s.tracker[τ] = .issued x e d → t.tracker[τ] =
        .issued x (min 65535 (e + 1))
          (decide (s.settings.responseTimeout ≠ 0 ∧ s.settings.responseTimeout ≤ min 65535 (e + 1)))) ∧
      ((∀ x e d, s.tracker[τ] ≠ .issued x e d) → t.tracker[τ] = s.tracker[τ])) ∧
    t.revocations.length = s.revocations.length ∧
    (∀ (i : Nat) (e : RevEntry), s.revocations[i]? = some e →
      (e.stall = .stopped → t.revocations[i]? = some e) ∧
      (∀ el d, e.stall = .running el d → t.revocations[i]? = some
        { e with
          stall := .running (min 65535 (el + 1))
            (decide (e.noticeGiven = false ∧ s.settings.stallNotice ≠ 0 ∧
              s.settings.stallNotice ≤ min 65535 (el + 1))) })) ∧
    (∀ c, s.port = .holding c → t.port = .holding (c + 1)) ∧
    ((∀ c, s.port ≠ .holding c) → t.port = s.port)

/-- RESPONSE_TIMEOUT: every entry whose timer expired becomes EXPIRED with late-pending set, and one record for
each, with its initiator, window, access kind, address, beats and tag, is handed in ascending tag order; no
in-flight count changes (R110, R111). -/
def Obligations.ResponseTimeoutExpiresDueEntries : Prop :=
  ∀ s : State, s.resetn = true → ∃ t, exec .responseTimeout s = .next t ∧
    t = { s with tracker := t.tracker, log := t.log } ∧
    (∀ τ : Tag,
      (∀ x e, s.tracker[τ] = .issued x e true → t.tracker[τ] = .expired x true) ∧
      ((∀ x e, s.tracker[τ] ≠ .issued x e true) → t.tracker[τ] = s.tracker[τ])) ∧
    t.log = ((List.finRange 32).filterMap fun τ =>
        match s.tracker[τ] with
        | .issued x _ true => some
            { kind := .responseTimeout
              desc :=
                { initiator := some x.initiator, window := some x.window, access := some x.kind
                  addr := some x.addr, len := some x.len, tag := some τ } }
        | _ => none).foldl (fun (l : EventLog) (e : Event) => l.hand s.tickCount e) s.log

/-- DRAIN_TIMER_EXPIRY: every binding whose drain timer expired in STAGED goes to FENCING, with one
FENCE_BEGUN each, carrying the initiator and, unless the pending default is clear, the pending handle and its
index, in ascending initiator order (R68). -/
def Obligations.DrainTimerExpiryFencesDueBindings : Prop :=
  ∀ s : State, s.resetn = true → ∃ t, exec .drainTimerExpiry s = .next t ∧
    t = { s with contexts := t.contexts, log := t.log } ∧
    (∀ n : Initiator,
      t.contexts[n] = { s.contexts[n] with rebind := t.contexts[n].rebind } ∧
      (∀ p, s.contexts[n].rebind = .staged p → p.due = true →
        t.contexts[n].rebind = .fencing { p with due := false }) ∧
      ((∀ p, s.contexts[n].rebind = .staged p → p.due = false) →
        t.contexts[n].rebind = s.contexts[n].rebind)) ∧
    t.log = ((List.finRange 8).filterMap fun n =>
        match s.contexts[n].rebind with
        | .staged p =>
          if p.due = true then some
            { kind := .fenceBegun
              desc := { initiator := some n, window := p.target.map Handle.index, handle := p.target } }
          else none
        | _ => none).foldl (fun (l : EventLog) (e : Event) => l.hand s.tickCount e) s.log

/-- STALL_TIMER_EXPIRY: every list entry whose stall timer expired has given notice and its timer stops, with
one REVOKE_STALLED each in list order carrying its root handle, the root's index and its drain sum, the sum of
the in-flight counts of the windows that the entry covers (R145, R149). -/
def Obligations.StallTimerExpiryGivesDueNotices : Prop :=
  ∀ s : State, s.resetn = true → ∃ t, exec .stallTimerExpiry s = .next t ∧
    t = { s with revocations := t.revocations, log := t.log } ∧
    t.revocations.length = s.revocations.length ∧
    (∀ (i : Nat) (e : RevEntry), s.revocations[i]? = some e →
      (∀ el, e.stall = .running el true →
        t.revocations[i]? = some { e with stall := .stopped, noticeGiven := true }) ∧
      ((∀ el, e.stall ≠ .running el true) → t.revocations[i]? = some e)) ∧
    t.log = (s.revocations.filterMap fun e =>
        match e.stall with
        | .running _ true => some
            { kind := .revokeStalled
              desc :=
                { window := some e.root.index, handle := some e.root
                  inFlightTotal := some ((List.finRange 64).map fun i =>
                    match s.windows[i].occ with
                    | .revoking w c => if c = e.root.index then w.inFlight else 0
                    | _ => 0).sum } }
        | _ => none).foldl (fun (l : EventLog) (e : Event) => l.hand s.tickCount e) s.log

/-- The downstream reset output is asserted in HOLDING alone (R100). HOLD_END at the 16th tick: it is released
and the port waits for the ready input; with the input high already the port becomes READY in the same step;
before the 16th tick the hold goes on (R114). -/
def Obligations.HoldEndReleasesDownstreamReset : Prop :=
  (∀ s : State, s.dnrstnLow = true ↔ ∃ c, s.port = .holding c) ∧
  ∀ s : State, s.resetn = true →
    (s.port = .holding 16 → s.dnrstnLow = true ∧
      (∀ dnReady, ∃ t, exec (.holdEnd dnReady) s = .next t ∧ t.dnrstnLow = false) ∧
      exec (.holdEnd false) s = .next { s with port := .awaitingReady } ∧
      exec (.holdEnd true) s = exec .portReady { s with port := .awaitingReady }) ∧
    (∀ c dnReady, s.port = .holding c → c < 16 → exec (.holdEnd dnReady) s = .next s)

/-- PORT_READY in AWAITING_READY: the port is READY and every waiting RESET_MEMORY_PORT is filled DONE, in
the order they joined; in any other state of the port the input is not consulted (R100, R114). -/
def Obligations.PortReadyAnswersWaitingResets : Prop :=
  ∀ s : State, s.resetn = true →
    (s.port = .awaitingReady → OwnerLaw s → ∃ t, exec .portReady s = .next t ∧
      t = { s with port := .ready, waitingResets := [], bank := t.bank } ∧
      t.bank.order = s.bank.order ++ s.waitingResets ∧
      (∀ k : RespIx, k ∉ s.waitingResets → t.bank.slots[k] = s.bank.slots[k]) ∧
      ∀ (k : RespIx) (seq : Byte) (code : CommandCode), k ∈ s.waitingResets →
        s.bank.slots[k] = .reserved seq code → t.bank.slots[k] = .filled ⟨seq, code, .done, []⟩) ∧
    (s.port ≠ .awaitingReady → exec .portReady s = .next s)

/-! ### Admission -/

/-- UPSTREAM_REQUEST: a complete request joins the tail of a lane with room; a lane of 4 holds its initiator
back and takes nothing (R29). -/
def Obligations.UpstreamRequestJoinsLaneTail : Prop :=
  ∀ (s : State) (n : Initiator) (r : Request), s.resetn = true → r.complete = true →
    (s.lanes[n].length < 4 →
      exec (.upstreamRequest n r) s = .next { s with lanes := s.lanes.set n (s.lanes[n] ++ [r]) }) ∧
    (4 ≤ s.lanes[n].length → exec (.upstreamRequest n r) s = .next s)

/-- TAKE of a request that passes every check: a QUEUED entry under the lowest FREE tag, the window's
in-flight count and the initiator's undelivered count raised, the tag at the tails of the delivery list and
the forward order, the pointer past the lane (R34, R41). -/
def Obligations.TakeAdmitsUnderJudgedWindow : Prop :=
  ∀ (s : State) (n : Initiator) (r : Request) (rest : List Request) (τ : Tag) (ix : SlotIx) (w : Window),
    s.resetn = true → s.grantedLane = some n → s.lanes[n] = r :: rest → s.lowestFreeTag = some τ →
    Admitted s n r ix w →
    exec .take s = .next
      { s with
        lanes := s.lanes.set n rest
        admitPtr := n + 1
        tracker := s.tracker.set τ (.queued ⟨n, ix, r.kind, r.addr, r.len⟩ r.data)
        windows := s.windows.set ix ⟨s.windows[ix].gen, .live { w with inFlight := w.inFlight + 1 }⟩
        contexts := s.contexts.set n { s.contexts[n] with undelivered := s.contexts[n].undelivered + 1 }
        deliveryLists := s.deliveryLists.set n (s.deliveryLists[n] ++ [τ])
        forward := s.forward ++ [τ] }

/-- TAKE of a request that fails its first check: a REFUSED entry, one record of that kind, the initiator
closed when it was OPEN under QUARANTINE, no window touched (R42 to R44); and every granted request is
either admitted or refused by the table of section 2.6. -/
def Obligations.TakeRefusesByFirstFailedCheck : Prop :=
  (∀ (s : State) (n : Initiator) (r : Request) (rest : List Request) (τ : Tag) (kind : EventKind)
      (win : Option SlotIx) (q : Bool),
    s.resetn = true → s.grantedLane = some n → s.lanes[n] = r :: rest → s.lowestFreeTag = some τ →
    Refused s n r kind win →
    q = decide (s.contexts[n].state = .opened ∧ s.contexts[n].policy = .quarantine) →
    exec .take s = .next
      { s with
        lanes := s.lanes.set n rest
        admitPtr := n + 1
        tracker := s.tracker.set τ (.refused n r.kind r.len)
        contexts := s.contexts.set n
          { s.contexts[n] with
            undelivered := s.contexts[n].undelivered + 1
            state := if q then .closed else s.contexts[n].state }
        deliveryLists := s.deliveryLists.set n (s.deliveryLists[n] ++ [τ])
        log := s.log.hand s.tickCount
          { kind := kind
            desc :=
              { initiator := some n, window := win, handle := r.handle, access := some r.kind
                addr := some r.addr, len := some r.len, tag := some τ }
            quarantine := q } }) ∧
  (∀ (s : State) (n : Initiator) (r : Request), DefaultLaw s →
    (∃ ix w, Admitted s n r ix w) ∨ ∃ kind win, Refused s n r kind win)

/-- Both arbiters are round robin: the admission arbiter grants the first eligible lane from its pointer upward,
wrapping, and the response port arbiter the first candidate from its own; with nothing eligible TAKE changes
nothing; and each grant to another brings an eligible lane or a candidate, at most seven places from the
pointer, strictly closer to it (R34, R35, R89). A lane is eligible exactly when it holds a head, the port is
READY, some tracker entry is FREE, the initiator's undelivered count is below 8 and its rebind state is not
FENCING, whatever the initiator's state (R32, R70); a head is deliverable exactly when its entry is REFUSED,
DONE or EXPIRED (R88); and the tag allocated is the lowest FREE one (R78). -/
def Obligations.ArbitersAreRoundRobin : Prop :=
  (∀ (s : State) (n : Initiator),
    (s.eligible n = true ↔
      s.lanes[n] ≠ [] ∧ s.port = .ready ∧ (∃ τ : Tag, s.tracker[τ] = .free) ∧ s.contexts[n].undelivered < 8 ∧
        ∀ p, s.contexts[n].rebind ≠ .fencing p) ∧
    (s.deliverableHead n = true ↔ ∃ τ rest, s.deliveryLists[n] = τ :: rest ∧
      ((∃ m kind len, s.tracker[τ] = .refused m kind len) ∨ (∃ x o, s.tracker[τ] = .done x o) ∨
        ∃ x late, s.tracker[τ] = .expired x late)) ∧
    (∀ τ : Tag, s.lowestFreeTag = some τ ↔
      s.tracker[τ] = .free ∧ ∀ u : Tag, u < τ → s.tracker[u] ≠ .free)) ∧
  ∀ s : State, s.resetn = true →
    (∀ n, s.grantedLane = some n ↔ s.eligible n = true ∧
      ∀ m : Initiator, s.eligible m = true → (n - s.admitPtr).val ≤ (m - s.admitPtr).val) ∧
    ((∀ n, s.eligible n = false) → exec .take s = .next s) ∧
    (∀ m t, s.eligible m = true → exec .take s = .next t → ∃ n, s.grantedLane = some n ∧
      t.admitPtr = n + 1 ∧ (n = m ∨ (m - t.admitPtr).val < (m - s.admitPtr).val)) ∧
    ∀ accepting : BitVec 8,
      (∀ n, s.grantedResponse accepting = some n ↔
        accepting.getLsbD n.val = true ∧ s.deliverableHead n = true ∧
        ∀ m : Initiator, accepting.getLsbD m.val = true → s.deliverableHead m = true →
          (n - s.respPtr).val ≤ (m - s.respPtr).val) ∧
      (∀ m t, accepting.getLsbD m.val = true → s.deliverableHead m = true →
        exec (.delivery accepting) s = .next t → ∃ n, s.grantedResponse accepting = some n ∧
          t.respPtr = n + 1 ∧ (n = m ∨ (m - t.respPtr).val < (m - s.respPtr).val))

/-- R47, the admission law: a QUEUED entry comes about only at a TAKE whose window was LIVE, whose initiator
was OPEN and a holder, whose permission and bounds fitted; it keeps its request until it is sent or reset;
and only QUEUED entries are sent downstream. -/
def Obligations.ForwardedOnlyIfAdmittedAtTake : Prop :=
  (∀ (c : Instr) (s t : State) (τ : Tag) (x : Txn) (data : List Beat),
    StepsTo c s t → DefaultLaw s → s.tracker[τ].isQueued = false → t.tracker[τ] = .queued x data →
    c = .take ∧ s.contexts[x.initiator].state = .opened ∧
      ∃ w, s.windows[x.window].occ = .live w ∧ w.holders.getLsbD x.initiator.val = true ∧ w.allows x.kind ∧
        w.base ≤ x.addr.toNat ∧ x.addr.toNat + 8 * beatCount x.len ≤ w.limit) ∧
  (∀ (c : Instr) (s t : State) (τ : Tag) (x : Txn) (data : List Beat),
    StepsTo c s t → s.tracker[τ] = .queued x data →
    t.tracker[τ] = .queued x data ∨ t.tracker[τ] = .issued x 0 false ∨ t.tracker[τ] = .done x .portReset) ∧
  (∀ (c : Instr) (s t : State), StepsTo c s t → t.dnOut ≠ s.dnOut →
    c = .downstreamAccept ∧ ∃ q x, t.dnOut = some q ∧ s.tracker[q.tag] = .queued x q.data ∧
      q.kind = x.kind ∧ q.len = x.len ∧ t.tracker[q.tag] = .issued x 0 false)

/-! ### The memory port -/

/-- DOWNSTREAM_ACCEPT: the head of the forward order is sent with its translated address, its entry becomes
ISSUED with a response timer at 0, and no in-flight count changes (R18, R103, R104). -/
def Obligations.DownstreamAcceptIssuesForwardHead : Prop :=
  ∀ (s : State) (τ : Tag) (rest : List Tag) (x : Txn) (data : List Beat) (w : Window),
    s.resetn = true → s.port = .ready → s.forward = τ :: rest → s.tracker[τ] = .queued x data →
    s.windows[x.window].occ.window? = some w →
    0 ≤ (x.addr.toNat : Int) + w.offset → (x.addr.toNat : Int) + w.offset < 1099511627776 →
    ∃ a : Addr, (a.toNat : Int) = (x.addr.toNat : Int) + w.offset ∧
      exec .downstreamAccept s = .next
        { s with
          forward := rest
          tracker := s.tracker.set τ (.issued x 0 false)
          dnOut := some ⟨τ, x.kind, a, x.len, data⟩ }

/-- DOWNSTREAM_RESPONSE for an ISSUED entry: DONE with OKAY, a READ's beats stored, or DONE with MEMORY_ERROR
and its record for any other status and for an OK READ with a wrong number of beats; the window's count falls
by one (R105, R106). -/
def Obligations.TimelyResponseCompletesEntry : Prop :=
  ∀ (s : State) (τ : Tag) (x : Txn) (e : Nat) (d : Bool) (status : DnStatus) (data : List Beat),
    s.resetn = true → s.port = .ready → s.tracker[τ] = .issued x e d →
    (status = .ok → x.kind = .write →
      exec (.downstreamResponse τ status data) s = .next
        ({ s with tracker := s.tracker.set τ (.done x .okay) }.releaseWindow x.window)) ∧
    (status = .ok → x.kind = .read → data.length = beatCount x.len →
      ∃ t, exec (.downstreamResponse τ status data) s = .next t ∧
        t = { { s with tracker := s.tracker.set τ (.done x .okay) }.releaseWindow x.window with
              readStore := t.readStore } ∧
        (∀ k : Fin 16, k.val < beatCount x.len → some t.readStore[τ][k] = data[k.val]?) ∧
        (∀ k : Fin 16, beatCount x.len ≤ k.val → t.readStore[τ][k] = s.readStore[τ][k]) ∧
        ∀ other : Tag, other ≠ τ → t.readStore[other] = s.readStore[other]) ∧
    (status ≠ .ok ∨ (x.kind = .read ∧ data.length ≠ beatCount x.len) →
      exec (.downstreamResponse τ status data) s = .next
        { { s with tracker := s.tracker.set τ (.done x .memoryError) }.releaseWindow x.window with
          log := s.log.hand s.tickCount
            { kind := .memoryError
              desc :=
                { initiator := some x.initiator, window := some x.window, access := some x.kind
                  addr := some x.addr, len := some x.len, tag := some τ } } })

/-- DOWNSTREAM_RESPONSE that no ISSUED entry awaits: late for EXPIRED with late-pending set (the flag is
cleared) and for ORPHANED (the entry is freed), with the window's count lowered and LATE_RESPONSE logged; a
stray for any other entry, only logged; and discarded without a record while the port is RESETTING (R107,
R108, R114). -/
def Obligations.LateStrayAndDiscardedResponses : Prop :=
  ∀ (s : State) (τ : Tag) (x : Txn) (status : DnStatus) (data : List Beat), s.resetn = true →
    (s.port = .ready → s.tracker[τ] = .expired x true ∨ s.tracker[τ] = .orphaned x →
      exec (.downstreamResponse τ status data) s = .next
        { { s with
            tracker := s.tracker.set τ
              (if s.tracker[τ] = Entry.orphaned x then .free else .expired x false) }.releaseWindow x.window with
          log := s.log.hand s.tickCount
            { kind := .lateResponse
              desc :=
                { initiator := some x.initiator, window := some x.window, access := some x.kind
                  addr := some x.addr, len := some x.len, tag := some τ } } }) ∧
    (s.port = .ready → s.tracker[τ].holds = none ∨ s.tracker[τ].isQueued = true →
      exec (.downstreamResponse τ status data) s = .next
        { s with
          log := s.log.hand s.tickCount { kind := .strayResponse, desc := { tag := some τ } } }) ∧
    (s.port ≠ .ready → exec (.downstreamResponse τ status data) s = .next s)

/-- RESET_MEMORY_PORT on a READY port: the port HOLDING at 0, QUEUED and ISSUED entries DONE with PORT_RESET,
late-pending cleared, orphans freed, the forward order empty, each count lowered once for each entry released
(so that nothing is left in flight), the downstream reset output asserted, and the command's slot waiting; on a
RESETTING port it only joins (R100, R112, R113). -/
def Obligations.ResetMemoryPortResolvesEveryOwedEntry : Prop :=
  ∀ (s : State) (f : Frame) (rest : List Frame) (k : RespIx), Takes s f rest k → f.code = .resetMemoryPort →
    (s.port = .ready → ∃ t, exec .resetMemoryPort s = .next t ∧
      t = { s.deferred f rest k with
            port := .holding 0, forward := [], tracker := t.tracker, windows := t.windows
            waitingResets := s.waitingResets ++ [k] } ∧ t.dnrstnLow = true ∧
      (∀ τ : Tag,
        (∀ x d, s.tracker[τ] = .queued x d → t.tracker[τ] = .done x .portReset) ∧
        (∀ x e d, s.tracker[τ] = .issued x e d → t.tracker[τ] = .done x .portReset) ∧
        (∀ x b, s.tracker[τ] = .expired x b → t.tracker[τ] = .expired x false) ∧
        (∀ x, s.tracker[τ] = .orphaned x → t.tracker[τ] = .free) ∧
        (s.tracker[τ].holds = none → t.tracker[τ] = s.tracker[τ])) ∧
      (∀ i : SlotIx, t.windows[i] = s.windows[i].mapWindow (subInFlight (heldBy s.tracker i))) ∧
      (CountLaw s → ∀ i : SlotIx, t.windows[i].inFlight = 0)) ∧
    (s.port ≠ .ready → exec .resetMemoryPort s = .next
      { s.deferred f rest k with waitingResets := s.waitingResets ++ [k] })

/-! ### Delivery -/

/-- DELIVERY: the granted initiator's head response goes up with its outcome and data, the undelivered count
falls, and the entry becomes FREE, or ORPHANED when its downstream response is still owed; with no candidate
nothing changes (R89, R92, R93). -/
def Obligations.DeliveryHandsUpHeadResponse : Prop :=
  (∀ (s : State) (accepting : BitVec 8) (n : Initiator) (τ : Tag) (rest : List Tag),
    s.resetn = true → s.grantedResponse accepting = some n → s.deliveryLists[n] = τ :: rest →
    (s.contexts[n].rebind = .none ∨ 1 < s.contexts[n].undelivered) →
    exec (.delivery accepting) s = .next
      { s with
        deliveryLists := s.deliveryLists.set n rest
        contexts := s.contexts.set n { s.contexts[n] with undelivered := s.contexts[n].undelivered - 1 }
        tracker := s.tracker.set τ s.tracker[τ].afterDelivery
        respPtr := n + 1
        upOut := some (n, s.tracker[τ].response s.readStore[τ]) }) ∧
  (∀ (s : State) (accepting : BitVec 8), s.resetn = true →
    (∀ n : Initiator, accepting.getLsbD n.val = true → s.deliverableHead n = false) →
    exec (.delivery accepting) s = .next s) ∧
  (∀ (x : Txn) (slot : Vector Beat 16) (n : Initiator) (len : Fin 16) (o : DoneOutcome) (late : Bool),
    (x.kind = .write →
      (Entry.done x .okay).response slot = ⟨.okay, []⟩ ∧
      (Entry.done x .memoryError).response slot = ⟨.memoryError, []⟩ ∧
      (Entry.done x .portReset).response slot = ⟨.portReset, []⟩ ∧
      (Entry.expired x late).response slot = ⟨.timeout, []⟩) ∧
    (x.kind = .read →
      (Entry.done x .okay).response slot = ⟨.okay, slot.toList.take (beatCount x.len)⟩ ∧
      (Entry.expired x late).response slot = ⟨.timeout, List.replicate (beatCount x.len) 0#64⟩ ∧
      (Entry.done x .memoryError).response slot = ⟨.memoryError, List.replicate (beatCount x.len) 0#64⟩ ∧
      (Entry.done x .portReset).response slot = ⟨.portReset, List.replicate (beatCount x.len) 0#64⟩) ∧
    (Entry.refused n .read len).response slot = ⟨.refused, List.replicate (beatCount len) 0#64⟩ ∧
    (Entry.refused n .write len).response slot = ⟨.refused, []⟩ ∧
    (Entry.expired x true).afterDelivery = .orphaned x ∧ (Entry.expired x false).afterDelivery = .free ∧
    (Entry.done x o).afterDelivery = .free ∧ (Entry.refused n x.kind len).afterDelivery = .free)

/-- STAGED_COMMIT: the delivery of the last undelivered entry under STAGED or FENCING makes the pending
default current, lifts the fence, stops the drain timer and fills the staging command's slot DONE, all in the
step of the delivery (R66). THE MODEL'S DEDUCTION (log entry 3): STAGED_COMMIT performs the whole delivery, and
DELIVERY, where it grants the same one, is the same step. -/
def Obligations.StagedCommitMakesPendingCurrent : Prop :=
  ∀ (s : State) (accepting : BitVec 8) (n : Initiator) (τ : Tag) (rest : List Tag) (p : Pending) (seq : Byte)
    (code : CommandCode),
    s.resetn = true → s.grantedResponse accepting = some n → s.deliveryLists[n] = τ :: rest →
    s.contexts[n].undelivered = 1 → s.contexts[n].rebind = .staged p ∨ s.contexts[n].rebind = .fencing p →
    s.bank.slots[p.slot] = .reserved seq code →
    exec (.stagedCommit accepting) s = .next
      { s with
        deliveryLists := s.deliveryLists.set n rest
        contexts := s.contexts.set n
          { s.contexts[n] with undelivered := 0, current := p.target, rebind := .none }
        tracker := s.tracker.set τ s.tracker[τ].afterDelivery
        respPtr := n + 1
        upOut := some (n, s.tracker[τ].response s.readStore[τ])
        bank :=
          { slots := s.bank.slots.set p.slot (.filled ⟨seq, code, .done, []⟩)
            order := s.bank.order ++ [p.slot] } } ∧
    exec (.delivery accepting) s = exec (.stagedCommit accepting) s

/-- A delivery list changes only at its tail by a TAKE and at its head by a delivery, which hands up that
head's response (R86, R92, R99). -/
def Obligations.DeliveryListsAreFifo : Prop :=
  ∀ (c : Instr) (s t : State) (n : Initiator), StepsTo c s t →
    t.deliveryLists[n] = s.deliveryLists[n] ∨
    (c = .take ∧ ∃ τ, s.tracker[τ] = .free ∧ t.deliveryLists[n] = s.deliveryLists[n] ++ [τ]) ∨
    ((∃ a, c = .delivery a ∨ c = .stagedCommit a) ∧ ∃ τ rest, s.deliveryLists[n] = τ :: rest ∧
      t.deliveryLists[n] = rest ∧ s.tracker[τ].deliverable = true ∧
      t.upOut = some (n, s.tracker[τ].response s.readStore[τ]))

/-- Once an entry is deliverable its outcome does not change: it keeps its status and shape until a delivery
makes it FREE or ORPHANED (R77, R88). -/
def Obligations.OutcomesNeverChange : Prop :=
  ∀ (c : Instr) (s t : State) (τ : Tag), StepsTo c s t → s.tracker[τ].deliverable = true →
    (t.tracker[τ].deliverable = true ∧ t.tracker[τ].status = s.tracker[τ].status ∧
      t.tracker[τ].shape = s.tracker[τ].shape) ∨
    ((∃ a, c = .delivery a ∨ c = .stagedCommit a) ∧ t.tracker[τ] = s.tracker[τ].afterDelivery)

/-- What the read data store holds outside the beats of DONE READs with OKAY reaches nobody: two states that
agree on those beats step alike in everything but the store, and agree again (R84, R85). So the zeros the
model gives the store at reset (log entry 5) are never delivered. -/
def Obligations.UnownedReadDataIsInvisible : Prop :=
  ∀ (c : Instr) (s : State) (other : Vector (Vector Beat 16) 32), s.storesAgree other →
    ∃ t other', exec c s = .next t ∧ exec c { s with readStore := other } = .next { t with readStore := other' } ∧
      t.storesAgree other'

/-! ### The management link -/

/-- The bytes of a session are ACCEPTED as a frame exactly when there is room in the queue, the payload has
the length its code requires, and the bytes begin with that frame's encoding, CRC included (R173, R186). -/
def Obligations.AcceptedFramesAreExactlyTheirEncodings : Prop :=
  ∀ (queued : Nat) (bytes : List Byte) (f : Frame),
    judgeFrame queued bytes = .accepted f ↔
      queued < 4 ∧ f.payload.length = f.code.payloadLength ∧ f.bytes <+: bytes

/-- COMMAND_FRAME of a whole session that is no FETCH, nothing else happening meanwhile: each byte of MISO is the
status byte of the state, and at CS's rising edge the complete bytes are judged, by the tests of section 10.2 in
their order, with the queue as it then stands; an ACCEPTED frame joins the queue's tail, any other changes the
last verdict alone, and a session with no complete byte changes nothing (R171 to R174). A session ignored to
its end is judged by nobody, and its bits of MISO after the release are free values (R184, log entry 6); the
edges of a FETCH are not COMMAND_FRAME's. That a byte begins to shift at the falling edge after the eighth bit
of the one before, and that status bytes follow a type byte that is neither value too, is the model's deduction
(log entry 7). -/
def Obligations.CommandFrameJoinsQueueOrIsDropped : Prop :=
  (∀ (s : State) (bytes : List Byte) (tail : List Bool), s.resetn = true → s.session = none →
    bytes.head? ≠ some fetchType → tail.length < 8 →
    exec (.commandFrame (.csFall :: bytes.flatMap byteEdges ++ tail.flatMap bitEdges ++ [.csRise])) s = .next
      { s with
        verdict := if bytes = [] then s.verdict else (judgeFrame s.queue.length bytes).verdict
        queue := if bytes = [] then s.queue else s.queue ++ (judgeFrame s.queue.length bytes).joins
        miso := ((List.replicate (bytes.length + 1) s.statusByte).flatMap byteBits).take
          (8 * bytes.length + tail.length) }) ∧
  (∀ (s : State) (a : Session) (bytes : List Byte), s.resetn = true → s.session = some a →
    a.kind = .command bytes →
    exec (.commandFrame [.csRise]) s = .next
      { s with
        session := none
        verdict := (judgeFrame s.queue.length bytes).verdict
        queue := s.queue ++ (judgeFrame s.queue.length bytes).joins }) ∧
  (∀ (queued : Nat) (bytes : List Byte),
    (∀ v, FrameFails queued bytes v → judgeFrame queued bytes = .dropped v) ∧
    ((∃ v, FrameFails queued bytes v) ∨ ∃ f, judgeFrame queued bytes = .accepted f)) ∧
  (∀ (v : Verdict) (f : Frame), (Judged.dropped v).verdict = v ∧ (Judged.dropped v).joins = [] ∧
    (Judged.accepted f).verdict = .accepted ∧ (Judged.accepted f).joins = [f]) ∧
  (∀ (s : State) (a : Session) (bits : List Bool), s.resetn = true → s.session = some a → a.kind = .ignored →
    a.sclk = false →
    exec (.commandFrame (bits.flatMap bitEdges ++ [.csRise])) s = .next
      { s with
        session := none
        miso := s.miso ++
          (a.pin :: (List.range bits.length).map fun k => Config.freeBit (s.freeDraws + k)).take bits.length
        freeDraws := s.freeDraws + bits.length }) ∧
  (∀ (s : State) (a : Session) (edges : List SpiEdge) (selected : Option RespIx) (clocked : Nat),
    s.session = some a → a.kind = .fetch selected clocked → exec (.commandFrame edges) s = .next s)

/-- FETCH_SELECT: as the type byte completes, the slot at the head of the fill order is selected, or the EMPTY
frame, whose five bytes are 00 00 01 00 15; the status byte that began to shift with the session goes out, and
no slot changes (R171, R172, R175, R187). The type byte may have begun with the session's CS falling earlier,
and its bits so far are then those of 0xA5; FETCH_SELECT clocks the rest of it: the model's reading of the row
(log entry 7). In a session whose type is known, or whose bits so far are no part of that byte, there is no
such event, and in one ignored to its end nothing is selected (R184). -/
def Obligations.FetchSelectPicksHeadOfFillOrder : Prop :=
  (∀ s : State, s.resetn = true → s.session = none →
    exec .fetchSelect s = .next
      { s with
        session := some ⟨.fetch s.bank.order.head? 0, true, [], s.statusByte, s.statusByte.getLsbD 0⟩
        miso := byteBits s.statusByte }) ∧
  (∀ (s : State) (a : Session), s.resetn = true → s.session = some a → a.Sound true → a.kind = .untyped →
    a.bits <+: byteBits fetchType →
    exec .fetchSelect s = .next
      { s with
        session := some ⟨.fetch s.bank.order.head? 0, true, [], a.out, a.out.getLsbD 0⟩
        miso := s.miso ++ (byteBits a.out).drop a.bits.length }) ∧
  (∀ (s : State) (a : Session), s.session = some a →
    (a.kind = .untyped → ¬a.bits <+: byteBits fetchType) → a.kind ≠ .ignored → exec .fetchSelect s = .next s) ∧
  (∀ (s : State) (a : Session), s.resetn = true → s.session = some a → a.kind = .ignored →
    ∃ a' bits draws, a'.kind = .ignored ∧
      exec .fetchSelect s = .next
        { s with session := some a', miso := s.miso ++ bits, freeDraws := s.freeDraws + draws }) ∧
  emptyFrame = [0x00#8, 0x00#8, 0x01#8, 0x00#8, 0x15#8]

/-- FETCH_END: the bits that follow the type byte are the selected frame, or the EMPTY frame, from its first
byte, and then zeros, whatever MOSI carries; and at CS's rising edge the slot of a frame clocked out whole is
emptied and leaves the fill order, while ended earlier it stays as it was, at the head, and the EMPTY frame
removes nothing (R175, R176). Outside a FETCH there is nothing to end, and a session ignored to its end
empties nothing, its bits of MISO after the release free values (R184, log entry 6). -/
def Obligations.FetchEndEmptiesSlotClockedWhole : Prop :=
  (∀ (s : State) (a : Session) (selected : Option RespIx) (clocked : Nat) (frame bytes : List Byte)
      (tail : List Bool),
    s.resetn = true → s.session = some a → a.kind = .fetch selected clocked → a.sclk = true → a.bits = [] →
    (selected = none ∧ frame = emptyFrame ∨
      ∃ k f, selected = some k ∧ s.bank.slots[k] = .filled f ∧ frame = f.bytes) → tail.length < 8 →
    exec (.fetchEnd (.sclkFall :: bytes.flatMap byteEdges ++ tail.flatMap bitEdges ++ [.csRise])) s =
      exec (.fetchEnd [.csRise])
        { s with
          session := some { a with kind := .fetch selected (clocked + bytes.length) }
          miso := s.miso ++
            ((frame.drop clocked).flatMap byteBits ++
              List.replicate (8 * bytes.length + tail.length) false).take (8 * bytes.length + tail.length) }) ∧
  (∀ (s : State) (a : Session) (clocked : Nat), s.resetn = true → s.session = some a →
    (∀ k f rest, a.kind = .fetch (some k) clocked → s.bank.slots[k] = .filled f → s.bank.order = k :: rest →
      (f.payload.length + 5 ≤ clocked →
        exec (.fetchEnd [.csRise]) s = .next
          { s with session := none, bank := { slots := s.bank.slots.set k .empty, order := rest } }) ∧
      (clocked < f.payload.length + 5 → exec (.fetchEnd [.csRise]) s = .next { s with session := none })) ∧
    (a.kind = .fetch none clocked → exec (.fetchEnd [.csRise]) s = .next { s with session := none })) ∧
  (∀ (s : State) (edges : List SpiEdge),
    (s.session = none → exec (.fetchEnd edges) s = .next s) ∧
    (∀ a, s.session = some a → a.kind = .untyped ∨ (∃ bytes, a.kind = .command bytes) →
      exec (.fetchEnd edges) s = .next s)) ∧
  (∀ (s : State) (a : Session) (bits : List Bool), s.resetn = true → s.session = some a → a.kind = .ignored →
    a.sclk = false →
    exec (.fetchEnd (bits.flatMap bitEdges ++ [.csRise])) s = .next
      { s with
        session := none
        miso := s.miso ++
          (a.pin :: (List.range bits.length).map fun k => Config.freeBit (s.freeDraws + k)).take bits.length
        freeDraws := s.freeDraws + bits.length })

/-- The life of a response slot: an empty slot is left only for the frame at the head of the queue, which
leaves it; a reserved slot stays reserved for its command or is filled with one frame under that command's
sequence and code; a filled slot keeps its frame until a FETCH that selected it and clocked it out whole
empties it; and filled and reserved slots never exceed 8 (R176, R178, R183). The table controller takes no
command without an empty slot, and only the frame at the head: with no empty slot, with an empty queue, or
with a head of another code, a command of the controller changes nothing (R179). -/
def Obligations.ResponseSlotLifeCycle : Prop :=
  (∀ (c : Instr) (s t : State) (k : RespIx), StepsTo c s t →
    (s.bank.slots[k] = .empty → t.bank.slots[k] = .empty ∨
      ∃ f rest, s.queue = f :: rest ∧ t.queue = rest ∧
        (t.bank.slots[k] = .reserved f.seq f.code ∨
          ∃ o p, t.bank.slots[k] = .filled ⟨f.seq, f.code, o, p⟩)) ∧
    (∀ seq code, s.bank.slots[k] = .reserved seq code → t.bank.slots[k] = .reserved seq code ∨
      ∃ o p, t.bank.slots[k] = .filled ⟨seq, code, o, p⟩) ∧
    (∀ f, s.bank.slots[k] = .filled f → t.bank.slots[k] = .filled f ∨
      (t.bank.slots[k] = .empty ∧ ∃ edges a clocked, c = .fetchEnd edges ∧ s.session = some a ∧
        a.kind = .fetch (some k) clocked ∧
        f.bytes.length ≤ clocked + (a.bits.length + risingEdges edges) / 8)) ∧
    t.bank.filledCount + t.bank.reservedCount ≤ 8) ∧
  ∀ (s : State) (code : CommandCode),
    (∀ k : RespIx, s.bank.slots[k] ≠ .empty) ∨ (∀ f rest, s.queue = f :: rest → f.code ≠ code) →
    exec (tableCommand code) s = .next s

/-- The host recovers the status byte's fields by dividing its code: bit 7 is the alert condition, 25 times
the verdict, 5 times the queue count and the filled class below it; the alert condition is a record in the log
or a filled slot, each where its enable is on (R170, R172, R182, R188). The fields are sampled as a byte begins
to shift, and the eight bits sent are that sample (R171, R172): at CS's falling edge and, by the model's
deduction (log entry 7), at SCLK's falling edge after each byte. MISO is at high impedance while CS is high, and zero while RESETN is low (R188). -/
def Obligations.StatusByteFieldsAreRecoverable : Prop :=
  (∀ s : State, s.queue.length ≤ 4 →
    s.statusByte.getLsbD 7 = s.alert ∧
    s.statusByte.toNat % 128 ≤ 124 ∧
    s.statusByte.toNat % 128 / 25 = s.verdict.code ∧
    s.statusByte.toNat % 128 % 25 / 5 = s.queue.length ∧
    s.statusByte.toNat % 128 % 25 % 5 = (if s.bank.filledCount ≤ 3 then s.bank.filledCount else 4)) ∧
  (∀ s : State, s.alert = true ↔
    (s.settings.alertOnEvents = true ∧ s.log.records ≠ []) ∨
      (s.settings.alertOnResponses = true ∧ ∃ (k : RespIx) (f : ResponseFrame), s.bank.slots[k] = .filled f)) ∧
  (∀ s : State, s.resetn = true → s.session = none →
    exec (.commandFrame [.csFall]) s = .next
      { s with session := some ⟨.untyped, false, [], s.statusByte, s.statusByte.getLsbD 7⟩, miso := [] }) ∧
  (∀ (s : State) (bytes : List Byte) (out : Byte) (pin : Bool), s.resetn = true →
    s.session = some ⟨.command bytes, true, [], out, pin⟩ →
    exec (.commandFrame [.sclkFall]) s = .next
      { s with session := some ⟨.command bytes, false, [], s.statusByte, s.statusByte.getLsbD 7⟩ }) ∧
  (∀ (s : State) (kind : SessionKind) (before : List Byte) (out b : Byte), s.resetn = true →
    s.session = some ⟨kind, false, [], out, out.getLsbD 7⟩ →
    kind = .untyped ∧ before = [] ∧ b ≠ fetchType ∨ kind = .command before →
    exec (.commandFrame (byteEdges b).dropLast) s = .next
      { s with
        session := some ⟨.command (before ++ [b]), true, [], out, out.getLsbD 0⟩
        miso := s.miso ++ byteBits out }) ∧
  ∀ s : State,
    (s.session = none → s.misoPin = none) ∧
    (∀ a, s.session = some a → s.misoPin = some (if s.resetn = true then a.pin else false))

/-- The payloads of DERIVE, SHRINK and SET_CONTROL decode to what was encoded, for every argument the layouts
can express (R185, R189). And the decoding of any bytes: fields are most significant byte first (R185); a
handle index, slot index or initiator byte out of range names none; a permissions byte with any of bits 3 to 7
set, and for DERIVE a relocation marker above 1, fail check 0 of DERIVE and SHRINK, and nothing else does;
with marker 0 the relocation bytes are ignored; a binding marker of 0 means none whatever the handle bytes, and
any other the handle given (R6, R62, R119, R189). -/
def Obligations.CommandPayloadsDecodeToWhatWasEncoded : Prop :=
  (∀ (p : List Byte) (i : Nat),
    (i < p.length → p[i]? = some (byteAt p i)) ∧
    fieldAt p i 0 = 0 ∧ (∀ n, fieldAt p i (n + 1) = 256 * fieldAt p i n + (byteAt p (i + n)).toNat) ∧
    signed48At p i = (if fieldAt p i 6 < 140737488355328 then (fieldAt p i 6 : Int)
      else (fieldAt p i 6 : Int) - 281474976710656) ∧
    (∀ h : Handle, handleAt p i = some h ↔ (byteAt p i).toNat = h.index.val ∧ byteAt p (i + 1) = h.gen) ∧
    (64 ≤ (byteAt p i).toNat → handleAt p i = none ∧ slotIxAt p i = none) ∧
    (∀ j : SlotIx, slotIxAt p i = some j ↔ (byteAt p i).toNat = j.val) ∧
    (∀ n : Initiator, initiatorAt p i = some n ↔ (byteAt p i).toNat = n.val) ∧
    (8 ≤ (byteAt p i).toNat → initiatorAt p i = none)) ∧
  (∀ p : List Byte,
    (byteAt p 1 = 0#8 → bindingOf p = .clear) ∧ (byteAt p 1 ≠ 0#8 → bindingOf p = .handle (handleAt p 2)) ∧
    (deriveArgs p = none ↔
      (∃ k, 3 ≤ k ∧ k ≤ 7 ∧ (byteAt p 14).getLsbD k = true) ∨ 1 < (byteAt p 16).toNat) ∧
    (shrinkArgs p = none ↔ ∃ k, 3 ≤ k ∧ k ≤ 7 ∧ (byteAt p 14).getLsbD k = true) ∧
    (∀ a, deriveArgs p = some a → a =
      ⟨handleAt p 0, fieldAt p 2 6, fieldAt p 8 6,
        ⟨(byteAt p 14).getLsbD 0, (byteAt p 14).getLsbD 1, (byteAt p 14).getLsbD 2⟩, byteAt p 15,
        if byteAt p 16 = 0#8 then none else some (signed48At p 17)⟩) ∧
    ∀ a, shrinkArgs p = some a → a =
      ⟨handleAt p 0, fieldAt p 2 6, fieldAt p 8 6,
        ⟨(byteAt p 14).getLsbD 0, (byteAt p 14).getLsbD 1, (byteAt p 14).getLsbD 2⟩, byteAt p 15⟩) ∧
  (∀ (h : Handle) (base limit : Nat) (perms : Perms) (holders : BitVec 8) (reloc : Option Int),
    base < 281474976710656 → limit < 281474976710656 →
    (∀ v, reloc = some v → -140737488355328 ≤ v ∧ v < 140737488355328) →
    deriveArgs (encodeDerive h base limit perms holders reloc) = some ⟨some h, base, limit, perms, holders, reloc⟩ ∧
    (encodeDerive h base limit perms holders reloc).length = CommandCode.derive.payloadLength ∧
    shrinkArgs (encodeShrink h base limit perms holders) = some ⟨some h, base, limit, perms, holders⟩ ∧
    (encodeShrink h base limit perms holders).length = CommandCode.shrink.payloadLength) ∧
  (∀ c : Settings, 1 ≤ c.prescale → c.prescale ≤ 1024 → c.drainDeadline < 65536 → c.responseTimeout < 65536 →
    c.stallNotice < 65536 →
    settingsOf c.report = some c ∧ c.report.length = CommandCode.setControl.payloadLength)

/-- The read-back payloads of READ_WINDOW and READ_EVENT have their lengths and carry every field where sections
11.5 and 11.6 put it, with its presence bit, and zeros in the bytes of an absent one: the records of a LIVE and
a REVOKING window, a FREE slot's, and an event's (R136, R185, R189, R190). The bits of the presence and flags
bytes that the layouts do not give are zero by the model's choice (log entry 18). -/
def Obligations.ReadBackPayloadsCarryTheirFields : Prop :=
  (∀ (g : Byte) (w : Window) (c : SlotIx) (revoking : Bool) (p : List Byte),
    p = WindowSlot.report ⟨g, if revoking then .revoking w c else .live w⟩ →
    w.base < 281474976710656 → w.limit < 281474976710656 →
    -140737488355328 ≤ w.offset → w.offset < 140737488355328 →
    (∀ v, w.reloc = some v → -140737488355328 ≤ v ∧ v < 140737488355328) → w.depth < 256 → w.inFlight < 256 →
    p.length = 42 ∧ byteAt p 0 = (if revoking then 2#8 else 1#8) ∧ byteAt p 1 = g ∧
      (byteAt p 2).getLsbD 0 = w.parent.isSome ∧ (byteAt p 2).getLsbD 1 = true ∧
      (byteAt p 2).getLsbD 2 = w.reloc.isSome ∧ (byteAt p 2).getLsbD 3 = revoking ∧
      (byteAt p 2).toNat < 16 ∧ (w.parent = none → byteAt p 3 = 0#8) ∧ (w.reloc = none → fieldAt p 19 6 = 0) ∧
      (revoking = false → byteAt p 41 = 0#8) ∧
      (∀ q, w.parent = some q → slotIxAt p 3 = some q) ∧ (byteAt p 4).toNat = w.depth ∧
      fieldAt p 5 6 = w.base ∧ fieldAt p 11 6 = w.limit ∧ permsOf (byteAt p 17) = some w.perms ∧
      byteAt p 18 = w.holders ∧ (∀ v, w.reloc = some v → signed48At p 19 = v) ∧ signed48At p 25 = w.offset ∧
      (byteAt p 31).toNat = ((List.range 64).countP fun n => w.children.getLsbD n) ∧
      fieldAt p 32 8 = w.children.toNat ∧ (byteAt p 40).toNat = w.inFlight ∧
      (revoking = true → slotIxAt p 41 = some c)) ∧
  (∀ g : Byte, WindowSlot.report ⟨g, .free⟩ = [0#8, g] ++ List.replicate 40 0#8) ∧
  (∀ (r : EventRecord) (p : List Byte), p = r.report → r.repeats < 256 → r.drops < 256 →
    (∀ k, r.desc.inFlightTotal = some k → k < 256) →
    p.length = 28 ∧ fieldAt p 0 2 = r.seq.toNat ∧ byteAt p 2 = r.kind.toByte ∧
      (byteAt p 3).getLsbD 0 = r.desc.initiator.isSome ∧ (byteAt p 3).getLsbD 1 = r.desc.window.isSome ∧
      (byteAt p 3).getLsbD 2 = r.desc.handle.isSome ∧ (byteAt p 3).getLsbD 3 = r.desc.access.isSome ∧
      (byteAt p 3).getLsbD 4 = r.desc.addr.isSome ∧ (byteAt p 3).getLsbD 5 = r.desc.len.isSome ∧
      (byteAt p 3).getLsbD 6 = r.desc.tag.isSome ∧ (byteAt p 3).getLsbD 7 = r.desc.inFlightTotal.isSome ∧
      (byteAt p 4).getLsbD 0 = r.quarantine ∧ (byteAt p 4).toNat < 2 ∧
      (r.desc.initiator = none → byteAt p 5 = 0#8) ∧ (r.desc.window = none → byteAt p 6 = 0#8) ∧
      (r.desc.handle = none → byteAt p 7 = 0#8 ∧ byteAt p 8 = 0#8) ∧ (r.desc.access = none → byteAt p 9 = 0#8) ∧
      (r.desc.addr = none → fieldAt p 10 5 = 0) ∧ (r.desc.len = none → byteAt p 15 = 0#8) ∧
      (r.desc.tag = none → byteAt p 16 = 0#8) ∧ (r.desc.inFlightTotal = none → byteAt p 27 = 0#8) ∧
      (∀ n, r.desc.initiator = some n → initiatorAt p 5 = some n) ∧
      (∀ i, r.desc.window = some i → slotIxAt p 6 = some i) ∧
      (∀ h, r.desc.handle = some h → handleAt p 7 = some h) ∧
      (∀ k, r.desc.access = some k → byteAt p 9 = (if k = .write then 1#8 else 0#8)) ∧
      (∀ a, r.desc.addr = some a → fieldAt p 10 5 = a.toNat) ∧
      (∀ l, r.desc.len = some l → (byteAt p 15).toNat = beatCount l) ∧
      (∀ τ, r.desc.tag = some τ → (byteAt p 16).toNat = τ.val) ∧
      fieldAt p 17 4 = r.firstTick.toNat ∧ fieldAt p 21 4 = r.lastTick.toNat ∧
      (byteAt p 25).toNat = r.repeats ∧ (byteAt p 26).toNat = r.drops ∧
      (∀ k, r.desc.inFlightTotal = some k → (byteAt p 27).toNat = k))

/-! ### Window commands -/

/-- DERIVE that passes every check: the lowest FREE slot becomes the LIVE child window with its generation
kept, its index joins the parent's children set, and the slot is answered DONE with the new handle (R9, R10,
R17, R120, R125). -/
def Obligations.DeriveAllocatesLowestFreeSlot : Prop :=
  ∀ (s : State) (f : Frame) (rest : List Frame) (k : RespIx) (a : DeriveArgs) (h : Handle) (w : Window)
    (i : SlotIx),
    Takes s f rest k → f.code = .derive → deriveArgs f.payload = some a → DeriveSound s a h w → w.depth < 5 →
    goodReloc h.index a.base a.limit a.reloc → i ≠ 0 → s.windows[i].occ = .free →
    (∀ j : SlotIx, j ≠ 0 → j < i → s.windows[j].occ ≠ .free) →
    exec .derive s = .next
      { s.answered f rest k .done [BitVec.ofNat 8 i.val, s.windows[i].gen] with
        windows :=
          (s.windows.set h.index ⟨h.gen, .live { w with children := w.children ||| slotBit i }⟩).set i
            ⟨s.windows[i].gen,
              .live
                { parent := some h.index, depth := w.depth + 1, base := a.base, limit := a.limit
                  perms := a.perms, holders := a.holders, reloc := a.reloc
                  offset := if h.index = 0 then a.reloc.getD 0 else w.offset
                  children := 0#64, inFlight := 0 }⟩ }

/-- DERIVE, SHRINK, REVOKE and BIND_DEFAULT that fail a check answer the first failing outcome of their tables
and change nothing else (R62, R118 to R120, R127, R138, R189). -/
def Obligations.RefusedCommandsOnlyAnswer : Prop :=
  ∀ (s : State) (f : Frame) (rest : List Frame) (k : RespIx) (o : CmdOutcome), Takes s f rest k →
    (f.code = .derive →
      (deriveArgs f.payload = none ∧ o = .badArgument) ∨ (∃ a, deriveArgs f.payload = some a ∧ DeriveFails s a o) →
      exec .derive s = .next (s.answered f rest k o [])) ∧
    (f.code = .shrink →
      (shrinkArgs f.payload = none ∧ o = .badArgument) ∨ (∃ a, shrinkArgs f.payload = some a ∧ ShrinkFails s a o) →
      exec .shrink s = .next (s.answered f rest k o [])) ∧
    (f.code = .revoke → RevokeFails s (handleAt f.payload 0) o →
      exec .revoke s = .next (s.answered f rest k o [])) ∧
    (f.code = .bindDefault →
      (initiatorAt f.payload 0 = none ∧ o = .badInitiator) ∨
        (∃ n, initiatorAt f.payload 0 = some n ∧ BindFails s n (bindingOf f.payload) o) →
      exec .bindDefault s = .next (s.answered f rest k o []))

/-- SHRINK that passes every check replaces the window's bounds, permissions and holders together and changes
nothing else of any record (R127 to R131). -/
def Obligations.ShrinkNarrowsOneWindow : Prop :=
  ∀ (s : State) (f : Frame) (rest : List Frame) (k : RespIx) (a : ShrinkArgs) (h : Handle) (w : Window),
    Takes s f rest k → f.code = .shrink → shrinkArgs f.payload = some a → a.handle = some h → h.index ≠ 0 →
    s.namesLive h w → goodBounds a.base a.limit → a.narrows w → s.childrenStillFit w a →
    s.defaultsStillHeld h w a →
    exec .shrink s = .next
      { s.answered f rest k .done [] with
        windows := s.windows.set h.index
          ⟨h.gen, .live { w with base := a.base, limit := a.limit, perms := a.perms, holders := a.holders }⟩ }

/-- READ_WINDOW returns the record of the slot named, whatever its state, and changes nothing; an index from
64 to 255 is BAD_ARGUMENT (R135, R136). -/
def Obligations.ReadWindowReturnsTheRecord : Prop :=
  ∀ (s : State) (f : Frame) (rest : List Frame) (k : RespIx), Takes s f rest k → f.code = .readWindow →
    (∀ i : SlotIx, (byteAt f.payload 0).toNat = i.val →
      exec .readWindow s = .next (s.answered f rest k .done s.windows[i].report)) ∧
    (64 ≤ (byteAt f.payload 0).toNat → exec .readWindow s = .next (s.answered f rest k .badArgument []))

/-! ### Revocation -/

/-- The subtree of a window is exactly what children sets reach from it, at any depth, itself included
(R140). -/
def Obligations.SubtreeIsTheReachableSet : Prop :=
  ∀ (t : Vector WindowSlot 64) (ix i : SlotIx),
    (subtreeOf t ix).getLsbD i.val = true ↔ Relation.ReflTransGen (childIn t) ix i

/-- REVOKE that passes every check: every LIVE window of the subtree becomes REVOKING and every window of it
takes the new entry as its cover, defaults in the subtree are cleared, each with a DEFAULT_CLEARED record that
carries initiator, handle and index, pending bindings in it are discarded, each with DISCARDED in the slot of
its staging command, older entries in it absorbed, and the new entry joins the list with its stall timer at 0
and its slot still reserved (R72, R138 to R143). A filling writes the frame under the sequence and code that
reserved the slot, which joins the fill order's tail, and touches no slot that is not reserved (R178, R187). -/
def Obligations.RevokeMarksTheWholeSubtree : Prop :=
  (∀ (b : SlotBank) (k : RespIx) (o : CmdOutcome) (payload : List Byte),
    (∀ seq code, b.slots[k] = .reserved seq code →
      b.fill ⟨k, o, payload⟩ = ⟨b.slots.set k (.filled ⟨seq, code, o, payload⟩), b.order ++ [k]⟩) ∧
    ((∀ seq code, b.slots[k] ≠ .reserved seq code) → b.fill ⟨k, o, payload⟩ = b)) ∧
  ∀ (s : State) (f : Frame) (rest : List Frame) (k : RespIx) (h : Handle) (w : Window) (m : BitVec 64),
    Takes s f rest k → f.code = .revoke → handleAt f.payload 0 = some h → h.index ≠ 0 → s.namesLive h w →
    m = subtreeOf s.windows h.index →
    (s.revocations.filter fun e => !m.getLsbD e.root.index.val).length + 1 ≤ 4 →
    ∃ t, exec .revoke s = .next t ∧
      t = { s.deferred f rest k with
            windows := t.windows, contexts := t.contexts, revocations := t.revocations, log := t.log
            bank := t.bank } ∧
      (∀ i : SlotIx, t.windows[i].gen = s.windows[i].gen ∧
        (m.getLsbD i.val = false → t.windows[i] = s.windows[i]) ∧
        (m.getLsbD i.val = true →
          (s.windows[i].occ = .free → t.windows[i].occ = .free) ∧
          (∀ v, s.windows[i].occ = .live v → t.windows[i].occ = .revoking v h.index) ∧
          ∀ v c, s.windows[i].occ = .revoking v c → t.windows[i].occ = .revoking v h.index)) ∧
      (∀ n : Initiator,
        t.contexts[n] =
          { s.contexts[n] with current := t.contexts[n].current, rebind := t.contexts[n].rebind } ∧
        (t.contexts[n].current =
          match s.contexts[n].current with
          | some g => if m.getLsbD g.index.val then none else some g
          | none => none) ∧
        (∀ p g, s.contexts[n].rebind.pending? = some p → p.target = some g → m.getLsbD g.index.val = true →
          t.contexts[n].rebind = .none) ∧
        ((∀ p g, s.contexts[n].rebind.pending? = some p → p.target = some g → m.getLsbD g.index.val = false) →
          t.contexts[n].rebind = s.contexts[n].rebind)) ∧
      t.revocations =
        (s.revocations.filter fun e => !m.getLsbD e.root.index.val) ++
          [⟨h, k, (s.revocations.filter fun e => m.getLsbD e.root.index.val).flatMap
              fun e => e.absorbed ++ [e.own],
            .running 0 false, false⟩] ∧
      t.log = ((List.finRange 8).filterMap fun n =>
          match s.contexts[n].current with
          | some g =>
            if m.getLsbD g.index.val = true then some
              { kind := .defaultCleared
                desc := { initiator := some n, window := some g.index, handle := some g } }
            else none
          | none => none).foldl (fun (l : EventLog) (e : Event) => l.hand s.tickCount e) s.log ∧
      t.bank = ((List.finRange 8).filterMap fun n =>
          match s.contexts[n].rebind with
          | .staged ⟨some g, slot, _, _⟩ | .fencing ⟨some g, slot, _, _⟩ =>
            if m.getLsbD g.index.val = true then some ⟨slot, .discarded, []⟩ else none
          | _ => none).foldl SlotBank.fill (s.deferred f rest k).bank

/-- SUBTREE_FREE: a test that finds its entry drained frees every covered window with its generation advanced,
takes the root out of its parent's children set, fills the absorbed slots REVOKED_BY_ANCESTOR and then the
entry's own DONE with the number of windows freed, and drops the entry; a test that finds it not drained
changes nothing. Drained is an in-flight sum of 0 over the windows covered (R25, R145, R146). THE
MODEL'S CHOICE (log entry 14): the place of the entry tested is an operand, and a test of a place that holds no
entry changes nothing. -/
def Obligations.SubtreeFreeReleasesDrainedSubtree : Prop :=
  (∀ (t : Vector WindowSlot 64) (root i : SlotIx),
    (t[i].coveredBy root = true ↔ ∃ w, t[i].occ = .revoking w root) ∧
    drainSum t root = ((List.finRange 64).map fun j =>
      match t[j].occ with
      | .revoking w c => if c = root then w.inFlight else 0
      | _ => 0).sum) ∧
  ∀ (s : State) (pos : Fin 4), s.resetn = true →
    (∀ e w p, s.revocations[pos.val]? = some e → drainSum s.windows e.root.index = 0 →
      s.windows[e.root.index].occ = .revoking w e.root.index → w.parent = some p →
      s.windows[p].coveredBy e.root.index = false →
      ∃ t, exec (.subtreeFree pos) s = .next t ∧
        t = { s with windows := t.windows, revocations := t.revocations, bank := t.bank } ∧
        (∀ i : SlotIx,
          (s.windows[i].coveredBy e.root.index = true → t.windows[i] = ⟨s.windows[i].gen + 1#8, .free⟩) ∧
          (s.windows[i].coveredBy e.root.index = false → i ≠ p → t.windows[i] = s.windows[i])) ∧
        t.windows[p] = s.windows[p].mapWindow
          (fun v => { v with children := v.children &&& ~~~slotBit e.root.index }) ∧
        t.revocations = s.revocations.take pos.val ++ s.revocations.drop (pos.val + 1) ∧
        t.bank = (e.absorbed.map (Fill.mk · .revokedByAncestor []) ++
          [Fill.mk e.own .done [BitVec.ofNat 8
            ((List.finRange 64).countP fun i => s.windows[i].coveredBy e.root.index)]]).foldl
          SlotBank.fill s.bank) ∧
    (∀ e, s.revocations[pos.val]? = some e → drainSum s.windows e.root.index ≠ 0 →
      exec (.subtreeFree pos) s = .next s) ∧
    (s.revocations.length ≤ pos.val → exec (.subtreeFree pos) s = .next s)

/-- R147: a REVOKING window becomes FREE only at a SUBTREE_FREE, and only when the in-flight count of every
window in its subtree is zero, so that no entry that counts names one. -/
def Obligations.RevokingWindowFreedOnlyWhenDrained : Prop :=
  ∀ (c : Instr) (s t : State) (i j : SlotIx), StepsTo c s t → WindowLaw s → CountLaw s →
    s.windows[i].isRevoking = true → t.windows[i].isFree = true →
    (subtreeOf s.windows i).getLsbD j.val = true →
    (∃ pos, c = .subtreeFree pos) ∧ s.windows[j].inFlight = 0 ∧ ∀ τ : Tag, s.tracker[τ].holds ≠ some j

/-- Authority only narrows, and a slot's generation advances only when it is freed: no command widens a
window, moves it in the tree or changes its relocation (R2, R7, R10, R16, R17, R128, R131). -/
def Obligations.AuthorityOnlyNarrows : Prop :=
  ∀ (c : Instr) (s t : State) (i : SlotIx), StepsTo c s t →
    (∀ w v, s.windows[i].occ.window? = some w → t.windows[i].occ.window? = some v →
      v.inside w ∧ v.parent = w.parent ∧ v.depth = w.depth ∧ v.reloc = w.reloc ∧ v.offset = w.offset) ∧
    (t.windows[i].gen ≠ s.windows[i].gen → s.windows[i].isRevoking = true ∧ t.windows[i].isFree = true ∧
      t.windows[i].gen = s.windows[i].gen + 1#8)

/-! ### Contexts -/

/-- BIND_DEFAULT that passes its checks: with nothing undelivered it commits at once; with requests
undelivered it is staged, and with a drain deadline of 0 fenced in the same step; a pending binding is
replaced, its command answered REPLACED, its timer and rebind state kept (R62 to R65). -/
def Obligations.BindDefaultCommitsStagesOrReplaces : Prop :=
  ∀ (s : State) (f : Frame) (rest : List Frame) (k : RespIx) (n : Initiator) (target : Option Handle),
    Takes s f rest k → f.code = .bindDefault → initiatorAt f.payload 0 = some n →
    BindPasses s n (bindingOf f.payload) target →
    (s.contexts[n].rebind = .none → s.contexts[n].undelivered = 0 →
      exec .bindDefault s = .next
        { s.answered f rest k .done [] with
          contexts := s.contexts.set n { s.contexts[n] with current := target } }) ∧
    (s.contexts[n].rebind = .none → 0 < s.contexts[n].undelivered → 0 < s.settings.drainDeadline →
      exec .bindDefault s = .next
        { s.deferred f rest k with
          contexts := s.contexts.set n { s.contexts[n] with rebind := .staged ⟨target, k, 0, false⟩ } }) ∧
    (s.contexts[n].rebind = .none → 0 < s.contexts[n].undelivered → s.settings.drainDeadline = 0 →
      exec .bindDefault s = .next
        { s.deferred f rest k with
          contexts := s.contexts.set n { s.contexts[n] with rebind := .fencing ⟨target, k, 0, false⟩ }
          log := s.log.hand s.tickCount
            { kind := .fenceBegun
              desc := { initiator := some n, window := target.map Handle.index, handle := target } } }) ∧
    (∀ p seq code, s.bank.slots[p.slot] = .reserved seq code →
      (s.contexts[n].rebind = .staged p →
        exec .bindDefault s = .next
          { s.deferred f rest k with
            contexts := s.contexts.set n
              { s.contexts[n] with rebind := .staged { p with target := target, slot := k } }
            bank :=
              { slots := (s.deferred f rest k).bank.slots.set p.slot (.filled ⟨seq, code, .replaced, []⟩)
                order := s.bank.order ++ [p.slot] } }) ∧
      (s.contexts[n].rebind = .fencing p →
        exec .bindDefault s = .next
          { s.deferred f rest k with
            contexts := s.contexts.set n
              { s.contexts[n] with rebind := .fencing { p with target := target, slot := k } }
            bank :=
              { slots := (s.deferred f rest k).bank.slots.set p.slot (.filled ⟨seq, code, .replaced, []⟩)
                order := s.bank.order ++ [p.slot] } }))

/-- R74: from the release of RESETN on, a current default changes only at a commit, when the undelivered count
is zero, and at the acceptance of a REVOKE whose subtree contains the window it names. The commit is the
immediate one of a BIND_DEFAULT that passed, or the drained one of the binding that was staged. -/
def Obligations.CurrentDefaultChangesOnlyAtCommitOrRevoke : Prop :=
  ∀ (c : Instr) (s t : State) (n : Initiator), StepsTo c s t →
    t.contexts[n].current ≠ s.contexts[n].current →
    (c = .bindDefault ∧ s.contexts[n].undelivered = 0 ∧ t.contexts[n].undelivered = 0 ∧
      s.contexts[n].rebind = .none ∧ t.contexts[n].rebind = .none ∧
      ∃ f rest k target, Takes s f rest k ∧ f.code = .bindDefault ∧ initiatorAt f.payload 0 = some n ∧
        BindPasses s n (bindingOf f.payload) target ∧ t.contexts[n].current = target) ∨
    ((∃ a, c = .delivery a ∨ c = .stagedCommit a) ∧ t.contexts[n].undelivered = 0 ∧
      t.contexts[n].rebind = .none ∧
      ∃ p, s.contexts[n].rebind.pending? = some p ∧ t.contexts[n].current = p.target) ∨
    (c = .revoke ∧ t.contexts[n].current = none ∧
      ∃ f rest k h g e, Takes s f rest k ∧ f.code = .revoke ∧ handleAt f.payload 0 = some g ∧
        s.contexts[n].current = some h ∧ (subtreeOf s.windows g.index).getLsbD h.index.val = true ∧
        t.revocations.getLast? = some e ∧ e.root = g ∧ e.own = k)

/-- SET_INITIATOR writes state and policy together and touches nothing else of any context; an initiator byte
of 8 or more is BAD_INITIATOR, and then a state or policy byte of 2 or more BAD_ARGUMENT (R58, R189). -/
def Obligations.SetInitiatorSetsStateAndPolicy : Prop :=
  ∀ (s : State) (f : Frame) (rest : List Frame) (k : RespIx), Takes s f rest k → f.code = .setInitiator →
    (∀ n : Initiator, (byteAt f.payload 0).toNat = n.val → (byteAt f.payload 1).toNat ≤ 1 →
      (byteAt f.payload 2).toNat ≤ 1 →
      exec .setInitiator s = .next
        { s.answered f rest k .done [] with
          contexts := s.contexts.set n
            { s.contexts[n] with
              state := if byteAt f.payload 1 = 1#8 then .opened else .closed
              policy := if byteAt f.payload 2 = 1#8 then .quarantine else .answer } }) ∧
    (8 ≤ (byteAt f.payload 0).toNat → exec .setInitiator s = .next (s.answered f rest k .badInitiator [])) ∧
    ((byteAt f.payload 0).toNat < 8 → 2 ≤ (byteAt f.payload 1).toNat ∨ 2 ≤ (byteAt f.payload 2).toNat →
      exec .setInitiator s = .next (s.answered f rest k .badArgument []))

/-- READ_INITIATOR returns the context as it stands and changes nothing; an initiator byte of 8 or more is
BAD_INITIATOR (R75). The 13 bytes carry state, policy, defaults, rebind state, drain timer and undelivered
count where section 11.5 puts them, with zeros in the bytes of what is absent (R185). -/
def Obligations.ReadInitiatorReturnsTheContext : Prop :=
  (∀ (s : State) (f : Frame) (rest : List Frame) (k : RespIx), Takes s f rest k → f.code = .readInitiator →
    (∀ n : Initiator, (byteAt f.payload 0).toNat = n.val →
      exec .readInitiator s = .next (s.answered f rest k .done s.contexts[n].report)) ∧
    (8 ≤ (byteAt f.payload 0).toNat → exec .readInitiator s = .next (s.answered f rest k .badInitiator []))) ∧
  (∀ (c : Context) (r : List Byte), r = c.report → c.undelivered < 256 →
    (∀ p, c.rebind.pending? = some p → p.elapsed < 65536) →
    r.length = 13 ∧ byteAt r 0 = (if c.state = .opened then 1#8 else 0#8) ∧
      byteAt r 1 = (if c.policy = .quarantine then 1#8 else 0#8) ∧
      (∀ h, c.current = some h → byteAt r 2 = 1#8 ∧ handleAt r 3 = some h) ∧
      (c.current = none → byteAt r 2 = 0#8 ∧ byteAt r 3 = 0#8 ∧ byteAt r 4 = 0#8) ∧
      (c.rebind = .none → byteAt r 5 = 0#8 ∧ byteAt r 6 = 0#8 ∧ byteAt r 7 = 0#8 ∧ byteAt r 8 = 0#8 ∧
        byteAt r 9 = 0#8 ∧ fieldAt r 10 2 = 0) ∧
      (∀ p, c.rebind = .staged p ∨ c.rebind = .fencing p →
        (∀ g, p.target = some g → byteAt r 5 = 2#8 ∧ handleAt r 6 = some g) ∧
        (p.target = none → byteAt r 5 = 1#8 ∧ byteAt r 6 = 0#8 ∧ byteAt r 7 = 0#8) ∧
        byteAt r 8 = (if c.rebind = .fencing p then 2#8 else 1#8) ∧ byteAt r 9 = 1#8 ∧
        fieldAt r 10 2 = p.elapsed) ∧
      (byteAt r 12).toNat = c.undelivered)

/-! ### Log, settings and status -/

/-- An event coalesces into the newest record of its kind, initiator and window; otherwise it starts a record
while fewer than 16 are held, and is lost and counted on the newest when 16 are (R154 to R158). -/
def Obligations.EventLogCoalescesStartsOrLoses : Prop :=
  ∀ (older : List EventRecord) (newest : EventRecord) (seq : BitVec 16) (tick : TickCount) (e : Event),
    (newest.kind = e.kind → newest.desc.initiator = e.desc.initiator → newest.desc.window = e.desc.window →
      EventLog.hand ⟨older ++ [newest], seq⟩ tick e =
        ⟨older ++ [{ newest with
                      repeats := min 255 (newest.repeats + 1), lastTick := tick
                      quarantine := newest.quarantine || e.quarantine }], seq⟩) ∧
    (¬(newest.kind = e.kind ∧ newest.desc.initiator = e.desc.initiator ∧
        newest.desc.window = e.desc.window) →
      (older.length < 15 →
        EventLog.hand ⟨older ++ [newest], seq⟩ tick e =
          ⟨older ++ [newest] ++ [⟨seq, e.kind, e.desc, tick, tick, 1, 0, e.quarantine⟩], seq + 1#16⟩) ∧
      (15 ≤ older.length →
        EventLog.hand ⟨older ++ [newest], seq⟩ tick e =
          ⟨older ++ [{ newest with drops := min 255 (newest.drops + 1) }], seq⟩)) ∧
    EventLog.hand ⟨[], seq⟩ tick e = ⟨[⟨seq, e.kind, e.desc, tick, tick, 1, 0, e.quarantine⟩], seq + 1#16⟩

/-- SET_CONTROL writes all six settings or none, and its response carries the settings held after it (R168,
R189). -/
def Obligations.SetControlWritesAllOrNone : Prop :=
  ∀ (s : State) (f : Frame) (rest : List Frame) (k : RespIx) (prescale : Nat), Takes s f rest k →
    f.code = .setControl → prescale = fieldAt f.payload 0 2 →
    (1 ≤ prescale → prescale ≤ 1024 → (byteAt f.payload 8).toNat ≤ 1 → (byteAt f.payload 9).toNat ≤ 1 →
      ∃ c : Settings,
        c = ⟨prescale, fieldAt f.payload 2 2, fieldAt f.payload 4 2, fieldAt f.payload 6 2,
          decide (byteAt f.payload 8 = 1#8), decide (byteAt f.payload 9 = 1#8)⟩ ∧
        exec .setControl s = .next { s.answered f rest k .done c.report with settings := c }) ∧
    (prescale = 0 ∨ 1024 < prescale ∨ 2 ≤ (byteAt f.payload 8).toNat ∨ 2 ≤ (byteAt f.payload 9).toNat →
      exec .setControl s = .next (s.answered f rest k .badArgument s.settings.report))

/-- READ_EVENT removes the oldest record and returns it, and answers EMPTY when the log holds none; the next
sequence number is not changed (R158 to R160). -/
def Obligations.ReadEventRemovesTheOldest : Prop :=
  ∀ (s : State) (f : Frame) (rest : List Frame) (k : RespIx), Takes s f rest k → f.code = .readEvent →
    (∀ r others, s.log.records = r :: others →
      exec .readEvent s = .next
        { s.answered f rest k .done r.report with log := ⟨others, s.log.nextSeq⟩ }) ∧
    (s.log.records = [] → exec .readEvent s = .next (s.answered f rest k .empty []))

/-- READ_STATUS reports the port state, occupancy, undelivered counts, window counts, list and log counts,
tick counter, and the queue and slot counts with its own frame out of the queue and its own slot reserved;
the window counts add up to 64 (R27, R181). -/
def Obligations.ReadStatusReportsTheCounts : Prop :=
  ∀ (s : State) (f : Frame) (rest : List Frame) (k : RespIx), Takes s f rest k → f.code = .readStatus →
    exec .readStatus s = .next
      (s.answered f rest k .done
        ([(if s.port = .ready then 0#8 else 1#8), BitVec.ofNat 8 s.occupancy]
          ++ (List.finRange 8).map (fun n => BitVec.ofNat 8 s.contexts[n].undelivered)
          ++ [BitVec.ofNat 8 s.liveCount, BitVec.ofNat 8 s.revokingCount, BitVec.ofNat 8 s.freeCount,
              BitVec.ofNat 8 s.revocations.length, BitVec.ofNat 8 s.log.records.length]
          ++ fieldBytes 4 s.tickCount.toNat
          ++ [BitVec.ofNat 8 rest.length, BitVec.ofNat 8 s.bank.filledCount,
              BitVec.ofNat 8 (s.bank.reservedCount + 1)])) ∧
    s.liveCount + s.revokingCount + s.freeCount = 64
end

