-- ==== Sys2Proof/Laws/Ops.lean ====
section
/-! SUPPORT. What each shared operation can do, said once: tables, arbiters, lowest-numbered choices, the take of a
command, response slots, the event log. -/

namespace Sys2Proof.Machine

/-! ### Tables -/

@[simp] theorem updAt_self {α : Type} {n : Nat} (v : Vector α n) (i : Fin n) (f : α → α) :
    (updAt v i f)[i] = f v[i] := by
  simp [updAt]

theorem updAt_other {α : Type} {n : Nat} (v : Vector α n) (i j : Fin n) (f : α → α) (h : j ≠ i) :
    (updAt v i f)[j] = v[j] := by
  have : i.val ≠ j.val := fun e => h (Fin.ext e.symm)
  simp [updAt, this]

theorem updAt_get {α : Type} {n : Nat} (v : Vector α n) (i j : Fin n) (f : α → α) :
    (updAt v i f)[j] = if j = i then f v[i] else v[j] := by
  by_cases h : j = i
  · subst h; simpa using updAt_self v j f
  · simp only [h, if_false, updAt_other v i j f h]

/-- An update whose function gives `a` on the entry is a plain `set`. -/
theorem updAt_eq_set {α : Type} {n : Nat} (v : Vector α n) (i : Fin n) (f : α → α) {a : α} (h : f v[i] = a) :
    updAt v i f = v.set i a := by
  simp only [updAt, h]

/-! ### The first of a numbering that passes a test -/

theorem find_finRange_some {n : Nat} {p : Fin n → Bool} {i : Fin n} :
    (List.finRange n).find? p = some i ↔ p i = true ∧ ∀ j, j < i → p j = false := by
  constructor
  · intro h
    obtain ⟨hp, as, bs, hl, ha⟩ := List.find?_eq_some_iff_append.mp h
    refine ⟨hp, fun j hj => ?_⟩
    have hpw : (List.finRange n).Pairwise (· < ·) := List.pairwise_lt_finRange n
    rw [hl, List.pairwise_append] at hpw
    have hm : j ∈ as ++ i :: bs := hl ▸ List.mem_finRange j
    rcases List.mem_append.mp hm with hm | hm
    · simpa using ha j hm
    · rcases List.mem_cons.mp hm with rfl | hm
      · exact absurd hj (lt_irrefl _)
      · exact absurd hj (not_lt.mpr (le_of_lt ((List.pairwise_cons.mp hpw.2.1).1 j hm)))
  · rintro ⟨hp, hlt⟩
    rcases hf : (List.finRange n).find? p with _ | k
    · exact absurd hp (by simpa using List.find?_eq_none.mp hf i (List.mem_finRange i))
    · obtain ⟨hk, as, bs, hl, ha⟩ := List.find?_eq_some_iff_append.mp hf
      have hpw : (List.finRange n).Pairwise (· < ·) := List.pairwise_lt_finRange n
      rw [hl, List.pairwise_append] at hpw
      have hm : i ∈ as ++ k :: bs := hl ▸ List.mem_finRange i
      rcases List.mem_append.mp hm with hm | hm
      · have := ha i hm; simp [hp] at this
      · rcases List.mem_cons.mp hm with rfl | hm
        · rfl
        · have := hlt k ((List.pairwise_cons.mp hpw.2.1).1 i hm)
          simp [hk] at this

theorem find_finRange_none {n : Nat} {p : Fin n → Bool} :
    (List.finRange n).find? p = none ↔ ∀ j, p j = false := by
  simp [List.find?_eq_none]

/-- The lowest FREE tag (R78). -/
theorem lowestFreeTag_some {s : State} {t : Tag} :
    s.lowestFreeTag = some t ↔ s.tracker[t].isFree = true ∧ ∀ u : Tag, u < t → s.tracker[u].isFree = false :=
  find_finRange_some

theorem lowestFreeTag_free {s : State} {t : Tag} (h : s.lowestFreeTag = some t) : s.tracker[t] = .free := by
  have := (lowestFreeTag_some.mp h).1
  cases e : s.tracker[t] <;> simp_all [Entry.isFree]

/-- The lowest FREE slot among 1 to 63 (R9). -/
theorem lowestFreeSlot_some {s : State} {i : SlotIx} :
    s.lowestFreeSlot = some i ↔
      (i ≠ 0 ∧ s.windows[i].isFree = true) ∧ ∀ j : SlotIx, j < i → j ≠ 0 → s.windows[j].isFree = false := by
  unfold State.lowestFreeSlot
  rw [find_finRange_some]
  simp only [Bool.and_eq_true, decide_eq_true_eq, Bool.and_eq_false_iff, decide_eq_false_iff_not]
  constructor
  · exact fun ⟨h, hl⟩ => ⟨h, fun j hj h0 => (hl j hj).resolve_left (fun c => c h0)⟩
  · exact fun ⟨h, hl⟩ => ⟨h, fun j hj => by
      by_cases h0 : j = 0
      · exact .inl (fun c => c h0)
      · exact .inr (hl j hj h0)⟩

theorem lowestFreeSlot_none {s : State} :
    s.lowestFreeSlot = none ↔ ∀ i : SlotIx, i ≠ 0 → s.windows[i].isFree = false := by
  unfold State.lowestFreeSlot
  rw [find_finRange_none]
  simp only [Bool.and_eq_false_iff, decide_eq_false_iff_not]
  exact ⟨fun h i hi => (h i).resolve_left (fun c => c hi), fun h i => by
    by_cases h0 : i = 0
    · exact .inl (fun c => c h0)
    · exact .inr (h i h0)⟩

theorem isFree_iff {v : WindowSlot} : v.isFree = true ↔ v.occ = .free := by
  cases h : v.occ <;> simp [WindowSlot.isFree, h]

/-! ### Round robin (R34, R89) -/

theorem roundRobin_eq (ptr : Fin 8) (p : Fin 8 → Bool) :
    roundRobin ptr p = ((List.finRange 8).find? fun k => p (ptr + k)).map (ptr + ·) := by
  simp only [roundRobin, List.find?_map]
  rfl

/-- The first from the pointer upward: it passes, and no other that passes is nearer. -/
theorem roundRobin_some {ptr n : Fin 8} {p : Fin 8 → Bool} :
    roundRobin ptr p = some n ↔ p n = true ∧ ∀ m, p m = true → (n - ptr).val ≤ (m - ptr).val := by
  rw [roundRobin_eq]
  constructor
  · intro h
    obtain ⟨k, hk, rfl⟩ := Option.map_eq_some_iff.mp h
    obtain ⟨h1, h2⟩ := find_finRange_some.mp hk
    refine ⟨h1, fun m hm => ?_⟩
    by_contra hc
    have hlt : m - ptr < k := by
      rw [Fin.lt_def]
      have : ptr + k - ptr = k := by abel
      rw [this] at hc
      omega
    have := h2 _ hlt
    rw [show ptr + (m - ptr) = m by abel] at this
    simp [hm] at this
  · rintro ⟨h1, h2⟩
    refine Option.map_eq_some_iff.mpr ⟨n - ptr, find_finRange_some.mpr ⟨?_, fun j hj => ?_⟩, by abel⟩
    · rwa [show ptr + (n - ptr) = n by abel]
    · by_contra hc
      have := h2 (ptr + j) (by simpa using hc)
      rw [show ptr + j - ptr = j by abel] at this
      exact absurd hj (not_lt.mpr this)

theorem roundRobin_none {ptr : Fin 8} {p : Fin 8 → Bool} : roundRobin ptr p = none ↔ ∀ m, p m = false := by
  rw [roundRobin_eq, Option.map_eq_none_iff, find_finRange_none]
  refine ⟨fun h m => ?_, fun h m => h _⟩
  have := h (m - ptr)
  rwa [show ptr + (m - ptr) = m by abel] at this

/-! ### Handles (R6) -/

theorem validHandle_iff {s : State} {h : Handle} :
    s.validHandle h = true ↔ s.windows[h.index].occ ≠ .free ∧ s.windows[h.index].gen = h.gen := by
  simp only [State.validHandle, Bool.and_eq_true, Bool.not_eq_true', beq_iff_eq]
  rw [← Bool.not_eq_true, isFree_iff]

theorem validHandle_of_live {s : State} {h : Handle} {w : Window} (hl : s.namesLive h w) :
    s.validHandle h = true :=
  validHandle_iff.mpr ⟨by rw [hl.2]; simp, hl.1⟩

theorem validHandle_of_revoking {s : State} {h : Handle} (hr : s.namesRevoking h) : s.validHandle h = true := by
  obtain ⟨hg, w, c, ho⟩ := hr
  exact validHandle_iff.mpr ⟨by rw [ho]; simp, hg⟩

theorem not_validHandle_of_stale {s : State} {h : Handle} (hs : s.stale h) : s.validHandle h = false := by
  rw [← Bool.not_eq_true, validHandle_iff]
  rintro ⟨h1, h2⟩
  exact hs.elim h1 (fun c => c h2)

/-- Every handle is stale, names a LIVE window, or names a REVOKING one (R6, R8). -/
theorem handle_cases (s : State) (h : Handle) :
    s.stale h ∨ (∃ w, s.namesLive h w) ∨ s.namesRevoking h := by
  by_cases hg : s.windows[h.index].gen = h.gen
  · cases ho : s.windows[h.index].occ with
    | free => exact .inl (.inl ho)
    | live w => exact .inr (.inl ⟨w, hg, ho⟩)
    | revoking w c => exact .inr (.inr ⟨hg, w, c, ho⟩)
  · exact .inl (.inr hg)

/-! ### Taking a command (R179) -/

theorem RespSlot.isEmpty_iff {r : RespSlot} : r.isEmpty = true ↔ r = .empty := by
  cases r <;> simp [RespSlot.isEmpty]

theorem lowestEmpty_some {b : SlotBank} {k : RespIx} :
    b.lowestEmpty = some k ↔ b.slots[k] = .empty ∧ ∀ j : RespIx, j < k → b.slots[j] ≠ .empty := by
  unfold SlotBank.lowestEmpty
  rw [find_finRange_some, RespSlot.isEmpty_iff]
  refine and_congr_right fun _ => forall_congr' fun j => imp_congr_right fun _ => ?_
  rw [← Bool.not_eq_true, RespSlot.isEmpty_iff]

/-- A take of the head frame is exactly `Takes`. -/
theorem takeCommand_some {code : CommandCode} {s t : State} {k : RespIx} {p : List Byte} :
    takeCommand code s = some (t, k, p) ↔
      ∃ f rest, Takes s f rest k ∧ f.code = code ∧ p = f.payload ∧ t = s.deferred f rest k := by
  constructor
  · intro h
    unfold takeCommand at h
    split at h
    · rename_i f rest k' hr hq he
      obtain ⟨h1, h2⟩ := lowestEmpty_some.mp he
      split at h
      · rename_i hc
        simp only [Option.some.injEq, Prod.mk.injEq] at h
        obtain ⟨rfl, rfl, rfl⟩ := h
        exact ⟨f, rest, ⟨hr, hq, h1, h2⟩, hc, rfl, rfl⟩
      · cases h
    · cases h
  · rintro ⟨f, rest, ht, hc, rfl, rfl⟩
    obtain ⟨hr, hq, he, hl⟩ := ht
    have hk := lowestEmpty_some.mpr ⟨he, hl⟩
    unfold takeCommand
    split
    · rename_i _ f' rest' k' _ hq' hk'
      rw [hq] at hq'
      rw [hk] at hk'
      cases hq'
      cases hk'
      rw [if_pos hc]
      rfl
    · rename_i hn
      exact (hn _ _ _ hr hq hk).elim

/-- What runs where the table controller takes the frame. -/
theorem runCommand_takes {s : State} {f : Frame} {rest : List Frame} {k : RespIx}
    (body : RespIx → List Byte → State → State) (ht : Takes s f rest k) {code : CommandCode}
    (hc : f.code = code) : runCommand code body s = .next (body k f.payload (s.deferred f rest k)) := by
  unfold runCommand
  rw [takeCommand_some.mpr ⟨f, rest, ht, hc, rfl, rfl⟩]

/-- A command either takes the head frame, or leaves the state as it is. -/
theorem runCommand_cases (code : CommandCode) (body : RespIx → List Byte → State → State) (s : State) :
    (∃ f rest k, Takes s f rest k ∧ f.code = code ∧
      runCommand code body s = .next (body k f.payload (s.deferred f rest k))) ∨
    runCommand code body s = .next s := by
  unfold runCommand
  cases h : takeCommand code s with
  | none => exact .inr rfl
  | some r =>
    obtain ⟨t, k, p⟩ := r
    obtain ⟨f, rest, ht, hc, rfl, rfl⟩ := takeCommand_some.mp h
    exact .inl ⟨f, rest, k, ht, hc, rfl⟩

/-- Answering in the slot just reserved fills it: the state of `State.answered`. -/
theorem answer_deferred (s : State) (f : Frame) (rest : List Frame) (k : RespIx) (o : CmdOutcome)
    (p : List Byte) : (s.deferred f rest k).answer k o p = s.answered f rest k o p := by
  simp [State.answer, State.fillAll, State.deferred, State.answered, SlotBank.fill]

/-! ### Response slots (R178) -/

theorem fill_reserved {b : SlotBank} {k : RespIx} {seq : Byte} {code : CommandCode} (o : CmdOutcome)
    (p : List Byte) (h : b.slots[k] = .reserved seq code) :
    b.fill ⟨k, o, p⟩ = ⟨b.slots.set k (.filled ⟨seq, code, o, p⟩), b.order ++ [k]⟩ := by
  unfold SlotBank.fill
  split
  · rename_i h'
    have h' : b.slots[k] = _ := h'
    rw [h] at h'
    cases h'
    rfl
  · rename_i h'
    exact absurd h (h' _ _)

theorem fill_other {b : SlotBank} {f : Fill} (h : ∀ seq code, b.slots[f.slot] ≠ .reserved seq code) :
    b.fill f = b := by
  unfold SlotBank.fill
  split
  · rename_i h'; exact absurd h' (h _ _)
  · rfl

/-! ### Out of reset -/

theorem whenOutOfReset_high {s : State} (effect : State → State) (h : s.resetn = true) :
    whenOutOfReset s effect = .next (effect s) := by
  simp [whenOutOfReset, h]

theorem whenOutOfReset_low {s : State} (effect : State → State) (h : s.resetn = false) :
    whenOutOfReset s effect = .next s := by
  simp [whenOutOfReset, h]

/-! ### The event log (R154 to R157) -/

theorem hand_coalesce {l : EventLog} {older : List EventRecord} {r : EventRecord} (tick : TickCount) {e : Event}
    (hl : l.records = older ++ [r]) (hm : r.matchesEvent e = true) :
    l.hand tick e = { l with records := older ++ [r.coalesce tick e] } := by
  simp [EventLog.hand, EventLog.coalesces, EventLog.updNewest, hl, hm]

theorem hand_new {l : EventLog} (tick : TickCount) {e : Event} (hm : l.coalesces e = false)
    (hn : l.records.length < Config.logDepth) :
    l.hand tick e = ⟨l.records ++ [newRecord l.nextSeq tick e], l.nextSeq + 1#16⟩ := by
  simp [EventLog.hand, hm, hn]

theorem hand_lost {l : EventLog} {older : List EventRecord} {r : EventRecord} (tick : TickCount) {e : Event}
    (hl : l.records = older ++ [r]) (hm : r.matchesEvent e = false) (hn : Config.logDepth ≤ older.length + 1) :
    l.hand tick e = { l with records := older ++ [r.countDrop] } := by
  have : ¬ older.length + 1 < Config.logDepth := by omega
  simp [EventLog.hand, EventLog.coalesces, EventLog.updNewest, hl, hm, this]

/-- Whatever the log does with an event, it holds at most 16 records if it did before. -/
theorem hand_length (l : EventLog) (tick : TickCount) (e : Event) (h : l.records.length ≤ Config.logDepth) :
    (l.hand tick e).records.length ≤ Config.logDepth := by
  unfold EventLog.hand EventLog.updNewest
  rcases List.eq_nil_or_concat l.records with hn | ⟨older, r, hr⟩
  · split
    · simp [hn]
    · split
      · simp [hn]; decide
      · simp [hn]
  · have hlen : older.length + 1 ≤ Config.logDepth := by simpa [hr] using h
    split
    · simpa [hr] using hlen
    · split
      · rename_i hlt; simpa using hlt
      · simpa [hr] using hlen

/-! ### The wires of the link (R171) -/

@[simp] theorem byteBits_length (b : Byte) : (byteBits b).length = 8 := rfl

/-- The bits of a byte make that byte. -/
theorem byteOfBits_byteBits : ∀ b : Byte, byteOfBits (byteBits b) = b := by
  decide +kernel

theorem byteBits_inj {a b : Byte} (h : byteBits a = byteBits b) : a = b := by
  rw [← byteOfBits_byteBits a, ← byteOfBits_byteBits b, h]

/-- The status byte does not look at the wires. -/
@[simp] theorem statusByte_wires (s : State) (x : Option Session) (m : List Bool) :
    ({ s with session := x, miso := m } : State).statusByte = s.statusByte := rfl

/-- The selected frame does not depend on the wires. -/
@[simp] theorem selectedBytes_wires (s : State) (x : Option Session) (m : List Bool) (k : Option RespIx) :
    ({ s with session := x, miso := m } : State).selectedBytes k = s.selectedBytes k := rfl

/-- Everything an edge can do out of reset: one of the four edges' effects, or nothing. -/
theorem spiEdge_cases {s : State} (e : SpiEdge) (hr : s.resetn = true) :
    s.spiEdge e = s ∨ (e = .csFall ∧ s.session = none ∧ s.spiEdge e = s.csFalls) ∨
    (∃ mosi a, e = .sclkRise mosi ∧ s.session = some a ∧ a.sclk = false ∧ s.spiEdge e = s.sclkRises a mosi) ∨
    (∃ a, e = .sclkFall ∧ s.session = some a ∧ a.sclk = true ∧ s.spiEdge e = s.sclkFalls a) ∨
    ∃ a, e = .csRise ∧ s.session = some a ∧ s.spiEdge e = s.csRises a := by
  cases e <;> simp only [State.spiEdge, hr, State.servedEdge, if_true] <;>
    (cases hs : s.session with
      | none => simp
      | some a => cases hc : a.sclk <;> simp [hc])

/-- Everything an edge can do while RESETN is low: it moves the wires, and MISO's bit is zero (R184). -/
theorem spiEdge_low {s : State} (e : SpiEdge) (hr : s.resetn = false) :
    ∃ session bits, (bits = s.miso ∨ bits = s.miso ++ [false] ∨ bits = []) ∧
      s.spiEdge e = { s with session := session, miso := bits } ∧
      (session = s.session ∨ session = none ∨ ∃ a, session = some a ∧ a.kind = .ignored) := by
  have same : ∃ session bits, (bits = s.miso ∨ bits = s.miso ++ [false] ∨ bits = []) ∧
      s = { s with session := session, miso := bits } ∧
      (session = s.session ∨ session = none ∨ ∃ a, session = some a ∧ a.kind = .ignored) :=
    ⟨_, _, .inl rfl, rfl, .inl rfl⟩
  rw [show s.spiEdge e = s.resetEdge e from if_neg (by simp [hr])]
  cases e <;> simp only [State.resetEdge]
  · split
    · exact ⟨_, _, .inr (.inr rfl), rfl, .inr (.inr ⟨_, rfl, rfl⟩)⟩
    · exact same
  · split
    · exact same
    · split
      · exact same
      · exact ⟨_, _, .inr (.inl rfl), rfl, .inr (.inr ⟨_, rfl, rfl⟩)⟩
  · split
    · exact same
    · split
      · exact ⟨_, _, .inl rfl, rfl, .inr (.inr ⟨_, rfl, rfl⟩)⟩
      · exact same
  · exact ⟨_, _, .inl rfl, rfl, .inr (.inl rfl)⟩

/-- What every edge keeps, a run of edges keeps. -/
theorem runEdges_keeps {P : State → Prop} {own : State → SpiEdge → Bool}
    (h : ∀ s e, P s → own s e = true → P (s.spiEdge e)) :
    ∀ (edges : List SpiEdge) (s : State), P s → P (runEdges own edges s)
  | [], _, hs => hs
  | e :: rest, s, hs => by
    unfold runEdges
    split
    · exact runEdges_keeps h rest _ (h s e hs ‹_›)
    · exact hs

/-- An edge that is the command's own drives the link, and the rest follows. -/
theorem runEdges_cons {own : State → SpiEdge → Bool} {e : SpiEdge} {s : State} (rest : List SpiEdge)
    (h : own s e = true) : runEdges own (e :: rest) s = runEdges own rest (s.spiEdge e) := by
  simp [runEdges, h]

/-- A byte clocked in a COMMAND session: it joins the bytes, its MISO bits are those of the byte that was being
shifted, and a fresh status byte begins (R171, R172). -/
theorem runEdges_command_byte {s : State} {before : List Byte} {out : Byte} (b : Byte) (rest : List SpiEdge)
    (hr : s.resetn = true) (hs : s.session = some ⟨.command before, false, [], out, out.getMsbD 0⟩) :
    runEdges State.ownsCommand (byteEdges b ++ rest) s = runEdges State.ownsCommand rest
      { s with
        session := some ⟨.command (before ++ [b]), false, [], s.statusByte, s.statusByte.getMsbD 0⟩
        miso := s.miso ++ byteBits out } := by
  have hb := byteOfBits_byteBits b
  cases s
  dsimp only at hr hs
  subst hr hs
  simp only [byteBits, List.range, List.range.loop, List.map] at hb
  simp [byteEdges, byteBits, bitEdges, List.range, List.range.loop, runEdges, State.ownsCommand,
    Session.completesFetchType, State.spiEdge, State.servedEdge, State.sclkRises, State.sclkFalls,
    State.afterByte, State.nextByte, hb]
  rfl

/-- A byte clocked in a FETCH session: MISO's bits are those of the byte that was being shifted, and the next byte
of the frame begins, or zero after its last (R175). -/
theorem runEdges_fetch_byte {s : State} {selected : Option RespIx} {clocked : Nat} {out : Byte} (b : Byte)
    (rest : List SpiEdge) (hr : s.resetn = true)
    (hs : s.session = some ⟨.fetch selected clocked, false, [], out, out.getMsbD 0⟩) :
    runEdges State.ownsFetch (byteEdges b ++ rest) s = runEdges State.ownsFetch rest
      { s with
        session := some ⟨.fetch selected (clocked + 1), false, [], (s.selectedBytes selected).getD (clocked + 1) 0#8,
          ((s.selectedBytes selected).getD (clocked + 1) 0#8).getMsbD 0⟩
        miso := s.miso ++ byteBits out } := by
  cases s
  dsimp only at hr hs
  subst hr hs
  simp [byteEdges, byteBits, bitEdges, List.range, List.range.loop, runEdges, State.ownsFetch,
    State.spiEdge, State.servedEdge, State.sclkRises, State.sclkFalls, State.afterByte, State.nextByte]
  rfl

end Sys2Proof.Machine
end

