-- ==== Sys2Proof/Laws/Checks.lean ====
section
/-! SUPPORT. The Boolean tests of the check orders say what the rules' own words say: one equivalence for each test,
so that a proof about a command never opens it. -/

namespace Sys2Proof.Machine

/-- Step 2 of admission (R37). -/
theorem wellPlaced_iff (r : Request) : wellPlaced r = true ↔ placed r := by
  unfold wellPlaced placed
  rw [Bool.and_eq_true, beq_iff_eq, decide_eq_true_eq]
  rfl

/-- Step 5 of admission (R40). -/
theorem grants_iff (w : Window) (k : AccessKind) : w.perms.grants k = true ↔ w.allows k := by
  cases k <;> simp [Perms.grants, Window.allows]

/-- Step 6 of admission (R40). -/
theorem withinWindow_iff (r : Request) (w : Window) : withinWindow r w = true ↔ w.covers r := by
  simp [withinWindow, Window.covers]

/-- Check 4 of DERIVE and SHRINK (R122). -/
theorem boundsOk_iff (base limit : Nat) : boundsOk base limit = true ↔ goodBounds base limit := by
  unfold boundsOk goodBounds
  rw [Bool.and_eq_true, Bool.and_eq_true, Bool.and_eq_true, beq_iff_eq, beq_iff_eq, decide_eq_true_eq,
    decide_eq_true_eq, and_assoc, and_assoc]
  rfl

/-- Inclusion of permission sets (R14). -/
theorem perms_subset_iff (a b : Perms) : a.subset b = true ↔ permsWithin a b := by
  rcases a with ⟨a1, a2, a3⟩
  rcases b with ⟨b1, b2, b3⟩
  revert a1 a2 a3 b1 b2 b3
  simp only [Perms.subset, permsWithin]
  decide

/-- Inclusion of holder sets (R15). -/
theorem subsetBits_holders_iff (a b : BitVec 8) : subsetBits a b = true ↔ holdersWithin a b := by
  unfold subsetBits holdersWithin
  rw [beq_iff_eq]
  constructor
  · intro h n hn
    have := congrArg (fun v => v.getLsbD n.val) h
    simpa [hn] using this
  · intro h
    ext i hi
    have := h ⟨i, hi⟩
    simp at this ⊢
    exact this

/-- Check 9 of DERIVE (R124). -/
theorem relocOk_iff (parent : SlotIx) (base limit : Nat) (reloc : Option Int) :
    relocOk parent base limit reloc = true ↔ goodReloc parent base limit reloc := by
  unfold relocOk goodReloc
  cases reloc with
  | none => simp
  | some v =>
    simp only [Bool.and_eq_true, decide_eq_true_eq, Option.some.injEq, forall_eq', and_assoc]
    rfl

/-- Check 5 of SHRINK (R128). -/
theorem isNarrower_iff (w : Window) (a : ShrinkArgs) : isNarrower w a = true ↔ a.narrows w := by
  unfold isNarrower ShrinkArgs.narrows
  rw [Bool.and_eq_true, Bool.and_eq_true, Bool.and_eq_true, decide_eq_true_eq, decide_eq_true_eq,
    perms_subset_iff, subsetBits_holders_iff, and_assoc, and_assoc]

/-- Check 6 of SHRINK (R129). -/
theorem childrenFit_iff (s : State) (w : Window) (a : ShrinkArgs) :
    childrenFit s.windows w a = true ↔ s.childrenStillFit w a := by
  unfold childrenFit State.childrenStillFit
  rw [List.all_eq_true]
  have fits : ∀ c : Window, fitsWithin c a.base a.limit a.perms a.holders = true ↔
      a.base ≤ c.base ∧ c.limit ≤ a.limit ∧ permsWithin c.perms a.perms ∧ holdersWithin c.holders a.holders := by
    intro c
    unfold fitsWithin
    rw [Bool.and_eq_true, Bool.and_eq_true, Bool.and_eq_true, decide_eq_true_eq, decide_eq_true_eq,
      perms_subset_iff, subsetBits_holders_iff, and_assoc, and_assoc]
  constructor
  · intro h i c hb hc
    have := h i (List.mem_finRange i)
    rw [hb, hc] at this
    exact (fits c).mp this
  · intro h i _
    cases hb : w.children.getLsbD i.val with
    | false => rfl
    | true =>
      cases hc : s.windows[i].occ.window? with
      | none => rfl
      | some c => exact (fits c).mpr (h i c hb hc)

/-! ### The read data store (R84) -/

/-- The beats a response brings are read back; those beyond them are as they were. -/
theorem writeBeats_get (slot : Vector Beat 16) (data : List Beat) (k : Fin 16) :
    (writeBeats slot data)[k] = data.getD k.val slot[k] := by
  simp [writeBeats]

/-! ### Admission (section 2.6) -/

/-- A request whose window is settled is judged against it alone (R38, R39). -/
theorem judge_of_judgedAgainst {s : State} {n : Initiator} {r : Request} {ix : SlotIx} {w : Window}
    (ho : s.contexts[n].state = .opened) (hp : placed r) (hj : JudgedAgainst s n r ix w) :
    s.judge n r = s.judgeAgainst r ix ∧ s.windows[ix].occ = .live w := by
  have hp' := (wellPlaced_iff r).mpr hp
  cases hj with
  | byHandle h w h1 h2 h3 h4 =>
    refine ⟨?_, h3.2⟩
    simp only [State.judge, ho, hp', h1, State.judgeHandle, validHandle_of_live h3, if_neg h2, h3.2, h4]
    simp
  | byDefault h w h1 h2 h3 h4 =>
    refine ⟨?_, h3.2⟩
    simp only [State.judge, ho, hp', h1, h2]
    simp

end Sys2Proof.Machine
end

