-- ==== Sys2Proof/Laws/State.lean ====
section
/-! SUPPORT. What each shared update of the state leaves as it was: one lemma for each field an update does not
touch, so that no proof opens a record update. -/

namespace Sys2Proof.Machine

variable (s : State)

/-! ### `logAll`: handing events to the log touches the log alone -/

@[simp] theorem State.logAll_pending (es : List Event) : (s.logAll es).pending = s.pending := rfl
@[simp] theorem State.logAll_resetn (es : List Event) : (s.logAll es).resetn = s.resetn := rfl
@[simp] theorem State.logAll_lanes (es : List Event) : (s.logAll es).lanes = s.lanes := rfl
@[simp] theorem State.logAll_admitPtr (es : List Event) : (s.logAll es).admitPtr = s.admitPtr := rfl
@[simp] theorem State.logAll_windows (es : List Event) : (s.logAll es).windows = s.windows := rfl
@[simp] theorem State.logAll_contexts (es : List Event) : (s.logAll es).contexts = s.contexts := rfl
@[simp] theorem State.logAll_tracker (es : List Event) : (s.logAll es).tracker = s.tracker := rfl
@[simp] theorem State.logAll_readStore (es : List Event) : (s.logAll es).readStore = s.readStore := rfl
@[simp] theorem State.logAll_deliveryLists (es : List Event) :
    (s.logAll es).deliveryLists = s.deliveryLists := rfl
@[simp] theorem State.logAll_respPtr (es : List Event) : (s.logAll es).respPtr = s.respPtr := rfl
@[simp] theorem State.logAll_port (es : List Event) : (s.logAll es).port = s.port := rfl
@[simp] theorem State.logAll_forward (es : List Event) : (s.logAll es).forward = s.forward := rfl
@[simp] theorem State.logAll_waitingResets (es : List Event) :
    (s.logAll es).waitingResets = s.waitingResets := rfl
@[simp] theorem State.logAll_revocations (es : List Event) : (s.logAll es).revocations = s.revocations := rfl
@[simp] theorem State.logAll_divider (es : List Event) : (s.logAll es).divider = s.divider := rfl
@[simp] theorem State.logAll_interval (es : List Event) : (s.logAll es).interval = s.interval := rfl
@[simp] theorem State.logAll_tickCount (es : List Event) : (s.logAll es).tickCount = s.tickCount := rfl
@[simp] theorem State.logAll_settings (es : List Event) : (s.logAll es).settings = s.settings := rfl
@[simp] theorem State.logAll_session (es : List Event) : (s.logAll es).session = s.session := rfl
@[simp] theorem State.logAll_verdict (es : List Event) : (s.logAll es).verdict = s.verdict := rfl
@[simp] theorem State.logAll_queue (es : List Event) : (s.logAll es).queue = s.queue := rfl
@[simp] theorem State.logAll_bank (es : List Event) : (s.logAll es).bank = s.bank := rfl
@[simp] theorem State.logAll_upOut (es : List Event) : (s.logAll es).upOut = s.upOut := rfl
@[simp] theorem State.logAll_dnOut (es : List Event) : (s.logAll es).dnOut = s.dnOut := rfl
@[simp] theorem State.logAll_miso (es : List Event) : (s.logAll es).miso = s.miso := rfl
@[simp] theorem State.logAll_freeDraws (es : List Event) : (s.logAll es).freeDraws = s.freeDraws := rfl

/-! ### `fillAll`: filling response slots touches the slots alone -/

@[simp] theorem State.fillAll_pending (fs : List Fill) : (s.fillAll fs).pending = s.pending := rfl
@[simp] theorem State.fillAll_resetn (fs : List Fill) : (s.fillAll fs).resetn = s.resetn := rfl
@[simp] theorem State.fillAll_lanes (fs : List Fill) : (s.fillAll fs).lanes = s.lanes := rfl
@[simp] theorem State.fillAll_admitPtr (fs : List Fill) : (s.fillAll fs).admitPtr = s.admitPtr := rfl
@[simp] theorem State.fillAll_windows (fs : List Fill) : (s.fillAll fs).windows = s.windows := rfl
@[simp] theorem State.fillAll_contexts (fs : List Fill) : (s.fillAll fs).contexts = s.contexts := rfl
@[simp] theorem State.fillAll_tracker (fs : List Fill) : (s.fillAll fs).tracker = s.tracker := rfl
@[simp] theorem State.fillAll_readStore (fs : List Fill) : (s.fillAll fs).readStore = s.readStore := rfl
@[simp] theorem State.fillAll_deliveryLists (fs : List Fill) :
    (s.fillAll fs).deliveryLists = s.deliveryLists := rfl
@[simp] theorem State.fillAll_respPtr (fs : List Fill) : (s.fillAll fs).respPtr = s.respPtr := rfl
@[simp] theorem State.fillAll_port (fs : List Fill) : (s.fillAll fs).port = s.port := rfl
@[simp] theorem State.fillAll_forward (fs : List Fill) : (s.fillAll fs).forward = s.forward := rfl
@[simp] theorem State.fillAll_waitingResets (fs : List Fill) :
    (s.fillAll fs).waitingResets = s.waitingResets := rfl
@[simp] theorem State.fillAll_revocations (fs : List Fill) : (s.fillAll fs).revocations = s.revocations := rfl
@[simp] theorem State.fillAll_log (fs : List Fill) : (s.fillAll fs).log = s.log := rfl
@[simp] theorem State.fillAll_divider (fs : List Fill) : (s.fillAll fs).divider = s.divider := rfl
@[simp] theorem State.fillAll_interval (fs : List Fill) : (s.fillAll fs).interval = s.interval := rfl
@[simp] theorem State.fillAll_tickCount (fs : List Fill) : (s.fillAll fs).tickCount = s.tickCount := rfl
@[simp] theorem State.fillAll_settings (fs : List Fill) : (s.fillAll fs).settings = s.settings := rfl
@[simp] theorem State.fillAll_session (fs : List Fill) : (s.fillAll fs).session = s.session := rfl
@[simp] theorem State.fillAll_verdict (fs : List Fill) : (s.fillAll fs).verdict = s.verdict := rfl
@[simp] theorem State.fillAll_queue (fs : List Fill) : (s.fillAll fs).queue = s.queue := rfl
@[simp] theorem State.fillAll_upOut (fs : List Fill) : (s.fillAll fs).upOut = s.upOut := rfl
@[simp] theorem State.fillAll_dnOut (fs : List Fill) : (s.fillAll fs).dnOut = s.dnOut := rfl
@[simp] theorem State.fillAll_miso (fs : List Fill) : (s.fillAll fs).miso = s.miso := rfl
@[simp] theorem State.fillAll_freeDraws (fs : List Fill) : (s.fillAll fs).freeDraws = s.freeDraws := rfl

/-! ### `answer`: an immediate completion touches the response slots alone -/

@[simp] theorem State.answer_pending (k : RespIx) (o : CmdOutcome) (p : List Byte) :
    (s.answer k o p).pending = s.pending := rfl
@[simp] theorem State.answer_resetn (k : RespIx) (o : CmdOutcome) (p : List Byte) :
    (s.answer k o p).resetn = s.resetn := rfl
@[simp] theorem State.answer_lanes (k : RespIx) (o : CmdOutcome) (p : List Byte) :
    (s.answer k o p).lanes = s.lanes := rfl
@[simp] theorem State.answer_admitPtr (k : RespIx) (o : CmdOutcome) (p : List Byte) :
    (s.answer k o p).admitPtr = s.admitPtr := rfl
@[simp] theorem State.answer_windows (k : RespIx) (o : CmdOutcome) (p : List Byte) :
    (s.answer k o p).windows = s.windows := rfl
@[simp] theorem State.answer_contexts (k : RespIx) (o : CmdOutcome) (p : List Byte) :
    (s.answer k o p).contexts = s.contexts := rfl
@[simp] theorem State.answer_tracker (k : RespIx) (o : CmdOutcome) (p : List Byte) :
    (s.answer k o p).tracker = s.tracker := rfl
@[simp] theorem State.answer_readStore (k : RespIx) (o : CmdOutcome) (p : List Byte) :
    (s.answer k o p).readStore = s.readStore := rfl
@[simp] theorem State.answer_deliveryLists (k : RespIx) (o : CmdOutcome) (p : List Byte) :
    (s.answer k o p).deliveryLists = s.deliveryLists := rfl
@[simp] theorem State.answer_respPtr (k : RespIx) (o : CmdOutcome) (p : List Byte) :
    (s.answer k o p).respPtr = s.respPtr := rfl
@[simp] theorem State.answer_port (k : RespIx) (o : CmdOutcome) (p : List Byte) :
    (s.answer k o p).port = s.port := rfl
@[simp] theorem State.answer_forward (k : RespIx) (o : CmdOutcome) (p : List Byte) :
    (s.answer k o p).forward = s.forward := rfl
@[simp] theorem State.answer_waitingResets (k : RespIx) (o : CmdOutcome) (p : List Byte) :
    (s.answer k o p).waitingResets = s.waitingResets := rfl
@[simp] theorem State.answer_revocations (k : RespIx) (o : CmdOutcome) (p : List Byte) :
    (s.answer k o p).revocations = s.revocations := rfl
@[simp] theorem State.answer_log (k : RespIx) (o : CmdOutcome) (p : List Byte) :
    (s.answer k o p).log = s.log := rfl
@[simp] theorem State.answer_divider (k : RespIx) (o : CmdOutcome) (p : List Byte) :
    (s.answer k o p).divider = s.divider := rfl
@[simp] theorem State.answer_interval (k : RespIx) (o : CmdOutcome) (p : List Byte) :
    (s.answer k o p).interval = s.interval := rfl
@[simp] theorem State.answer_tickCount (k : RespIx) (o : CmdOutcome) (p : List Byte) :
    (s.answer k o p).tickCount = s.tickCount := rfl
@[simp] theorem State.answer_settings (k : RespIx) (o : CmdOutcome) (p : List Byte) :
    (s.answer k o p).settings = s.settings := rfl
@[simp] theorem State.answer_session (k : RespIx) (o : CmdOutcome) (p : List Byte) :
    (s.answer k o p).session = s.session := rfl
@[simp] theorem State.answer_verdict (k : RespIx) (o : CmdOutcome) (p : List Byte) :
    (s.answer k o p).verdict = s.verdict := rfl
@[simp] theorem State.answer_queue (k : RespIx) (o : CmdOutcome) (p : List Byte) :
    (s.answer k o p).queue = s.queue := rfl
@[simp] theorem State.answer_upOut (k : RespIx) (o : CmdOutcome) (p : List Byte) :
    (s.answer k o p).upOut = s.upOut := rfl
@[simp] theorem State.answer_dnOut (k : RespIx) (o : CmdOutcome) (p : List Byte) :
    (s.answer k o p).dnOut = s.dnOut := rfl
@[simp] theorem State.answer_miso (k : RespIx) (o : CmdOutcome) (p : List Byte) :
    (s.answer k o p).miso = s.miso := rfl
@[simp] theorem State.answer_freeDraws (k : RespIx) (o : CmdOutcome) (p : List Byte) :
    (s.answer k o p).freeDraws = s.freeDraws := rfl

/-! ### `setEntry`: changing a tracker entry touches the tracker alone -/

@[simp] theorem State.setEntry_pending (t : Tag) (e : Entry) : (s.setEntry t e).pending = s.pending := rfl
@[simp] theorem State.setEntry_resetn (t : Tag) (e : Entry) : (s.setEntry t e).resetn = s.resetn := rfl
@[simp] theorem State.setEntry_lanes (t : Tag) (e : Entry) : (s.setEntry t e).lanes = s.lanes := rfl
@[simp] theorem State.setEntry_admitPtr (t : Tag) (e : Entry) : (s.setEntry t e).admitPtr = s.admitPtr := rfl
@[simp] theorem State.setEntry_windows (t : Tag) (e : Entry) : (s.setEntry t e).windows = s.windows := rfl
@[simp] theorem State.setEntry_contexts (t : Tag) (e : Entry) : (s.setEntry t e).contexts = s.contexts := rfl
@[simp] theorem State.setEntry_readStore (t : Tag) (e : Entry) :
    (s.setEntry t e).readStore = s.readStore := rfl
@[simp] theorem State.setEntry_deliveryLists (t : Tag) (e : Entry) :
    (s.setEntry t e).deliveryLists = s.deliveryLists := rfl
@[simp] theorem State.setEntry_respPtr (t : Tag) (e : Entry) : (s.setEntry t e).respPtr = s.respPtr := rfl
@[simp] theorem State.setEntry_port (t : Tag) (e : Entry) : (s.setEntry t e).port = s.port := rfl
@[simp] theorem State.setEntry_forward (t : Tag) (e : Entry) : (s.setEntry t e).forward = s.forward := rfl
@[simp] theorem State.setEntry_waitingResets (t : Tag) (e : Entry) :
    (s.setEntry t e).waitingResets = s.waitingResets := rfl
@[simp] theorem State.setEntry_revocations (t : Tag) (e : Entry) :
    (s.setEntry t e).revocations = s.revocations := rfl
@[simp] theorem State.setEntry_log (t : Tag) (e : Entry) : (s.setEntry t e).log = s.log := rfl
@[simp] theorem State.setEntry_divider (t : Tag) (e : Entry) : (s.setEntry t e).divider = s.divider := rfl
@[simp] theorem State.setEntry_interval (t : Tag) (e : Entry) : (s.setEntry t e).interval = s.interval := rfl
@[simp] theorem State.setEntry_tickCount (t : Tag) (e : Entry) :
    (s.setEntry t e).tickCount = s.tickCount := rfl
@[simp] theorem State.setEntry_settings (t : Tag) (e : Entry) : (s.setEntry t e).settings = s.settings := rfl
@[simp] theorem State.setEntry_session (t : Tag) (e : Entry) : (s.setEntry t e).session = s.session := rfl
@[simp] theorem State.setEntry_verdict (t : Tag) (e : Entry) : (s.setEntry t e).verdict = s.verdict := rfl
@[simp] theorem State.setEntry_queue (t : Tag) (e : Entry) : (s.setEntry t e).queue = s.queue := rfl
@[simp] theorem State.setEntry_bank (t : Tag) (e : Entry) : (s.setEntry t e).bank = s.bank := rfl
@[simp] theorem State.setEntry_upOut (t : Tag) (e : Entry) : (s.setEntry t e).upOut = s.upOut := rfl
@[simp] theorem State.setEntry_dnOut (t : Tag) (e : Entry) : (s.setEntry t e).dnOut = s.dnOut := rfl
@[simp] theorem State.setEntry_miso (t : Tag) (e : Entry) : (s.setEntry t e).miso = s.miso := rfl
@[simp] theorem State.setEntry_freeDraws (t : Tag) (e : Entry) :
    (s.setEntry t e).freeDraws = s.freeDraws := rfl

/-! ### `updContext`: changing a context touches the contexts alone -/

@[simp] theorem State.updContext_pending (n : Initiator) (f : Context → Context) :
    (s.updContext n f).pending = s.pending := rfl
@[simp] theorem State.updContext_resetn (n : Initiator) (f : Context → Context) :
    (s.updContext n f).resetn = s.resetn := rfl
@[simp] theorem State.updContext_lanes (n : Initiator) (f : Context → Context) :
    (s.updContext n f).lanes = s.lanes := rfl
@[simp] theorem State.updContext_admitPtr (n : Initiator) (f : Context → Context) :
    (s.updContext n f).admitPtr = s.admitPtr := rfl
@[simp] theorem State.updContext_windows (n : Initiator) (f : Context → Context) :
    (s.updContext n f).windows = s.windows := rfl
@[simp] theorem State.updContext_tracker (n : Initiator) (f : Context → Context) :
    (s.updContext n f).tracker = s.tracker := rfl
@[simp] theorem State.updContext_readStore (n : Initiator) (f : Context → Context) :
    (s.updContext n f).readStore = s.readStore := rfl
@[simp] theorem State.updContext_deliveryLists (n : Initiator) (f : Context → Context) :
    (s.updContext n f).deliveryLists = s.deliveryLists := rfl
@[simp] theorem State.updContext_respPtr (n : Initiator) (f : Context → Context) :
    (s.updContext n f).respPtr = s.respPtr := rfl
@[simp] theorem State.updContext_port (n : Initiator) (f : Context → Context) :
    (s.updContext n f).port = s.port := rfl
@[simp] theorem State.updContext_forward (n : Initiator) (f : Context → Context) :
    (s.updContext n f).forward = s.forward := rfl
@[simp] theorem State.updContext_waitingResets (n : Initiator) (f : Context → Context) :
    (s.updContext n f).waitingResets = s.waitingResets := rfl
@[simp] theorem State.updContext_revocations (n : Initiator) (f : Context → Context) :
    (s.updContext n f).revocations = s.revocations := rfl
@[simp] theorem State.updContext_log (n : Initiator) (f : Context → Context) :
    (s.updContext n f).log = s.log := rfl
@[simp] theorem State.updContext_divider (n : Initiator) (f : Context → Context) :
    (s.updContext n f).divider = s.divider := rfl
@[simp] theorem State.updContext_interval (n : Initiator) (f : Context → Context) :
    (s.updContext n f).interval = s.interval := rfl
@[simp] theorem State.updContext_tickCount (n : Initiator) (f : Context → Context) :
    (s.updContext n f).tickCount = s.tickCount := rfl
@[simp] theorem State.updContext_settings (n : Initiator) (f : Context → Context) :
    (s.updContext n f).settings = s.settings := rfl
@[simp] theorem State.updContext_session (n : Initiator) (f : Context → Context) :
    (s.updContext n f).session = s.session := rfl
@[simp] theorem State.updContext_verdict (n : Initiator) (f : Context → Context) :
    (s.updContext n f).verdict = s.verdict := rfl
@[simp] theorem State.updContext_queue (n : Initiator) (f : Context → Context) :
    (s.updContext n f).queue = s.queue := rfl
@[simp] theorem State.updContext_bank (n : Initiator) (f : Context → Context) :
    (s.updContext n f).bank = s.bank := rfl
@[simp] theorem State.updContext_upOut (n : Initiator) (f : Context → Context) :
    (s.updContext n f).upOut = s.upOut := rfl
@[simp] theorem State.updContext_dnOut (n : Initiator) (f : Context → Context) :
    (s.updContext n f).dnOut = s.dnOut := rfl
@[simp] theorem State.updContext_miso (n : Initiator) (f : Context → Context) :
    (s.updContext n f).miso = s.miso := rfl
@[simp] theorem State.updContext_freeDraws (n : Initiator) (f : Context → Context) :
    (s.updContext n f).freeDraws = s.freeDraws := rfl

/-! ### `releaseWindow`: lowering an in-flight count touches the window table alone -/

@[simp] theorem State.releaseWindow_pending (ix : SlotIx) : (s.releaseWindow ix).pending = s.pending := rfl
@[simp] theorem State.releaseWindow_resetn (ix : SlotIx) : (s.releaseWindow ix).resetn = s.resetn := rfl
@[simp] theorem State.releaseWindow_lanes (ix : SlotIx) : (s.releaseWindow ix).lanes = s.lanes := rfl
@[simp] theorem State.releaseWindow_admitPtr (ix : SlotIx) : (s.releaseWindow ix).admitPtr = s.admitPtr := rfl
@[simp] theorem State.releaseWindow_contexts (ix : SlotIx) : (s.releaseWindow ix).contexts = s.contexts := rfl
@[simp] theorem State.releaseWindow_tracker (ix : SlotIx) : (s.releaseWindow ix).tracker = s.tracker := rfl
@[simp] theorem State.releaseWindow_readStore (ix : SlotIx) :
    (s.releaseWindow ix).readStore = s.readStore := rfl
@[simp] theorem State.releaseWindow_deliveryLists (ix : SlotIx) :
    (s.releaseWindow ix).deliveryLists = s.deliveryLists := rfl
@[simp] theorem State.releaseWindow_respPtr (ix : SlotIx) : (s.releaseWindow ix).respPtr = s.respPtr := rfl
@[simp] theorem State.releaseWindow_port (ix : SlotIx) : (s.releaseWindow ix).port = s.port := rfl
@[simp] theorem State.releaseWindow_forward (ix : SlotIx) : (s.releaseWindow ix).forward = s.forward := rfl
@[simp] theorem State.releaseWindow_waitingResets (ix : SlotIx) :
    (s.releaseWindow ix).waitingResets = s.waitingResets := rfl
@[simp] theorem State.releaseWindow_revocations (ix : SlotIx) :
    (s.releaseWindow ix).revocations = s.revocations := rfl
@[simp] theorem State.releaseWindow_log (ix : SlotIx) : (s.releaseWindow ix).log = s.log := rfl
@[simp] theorem State.releaseWindow_divider (ix : SlotIx) : (s.releaseWindow ix).divider = s.divider := rfl
@[simp] theorem State.releaseWindow_interval (ix : SlotIx) : (s.releaseWindow ix).interval = s.interval := rfl
@[simp] theorem State.releaseWindow_tickCount (ix : SlotIx) :
    (s.releaseWindow ix).tickCount = s.tickCount := rfl
@[simp] theorem State.releaseWindow_settings (ix : SlotIx) : (s.releaseWindow ix).settings = s.settings := rfl
@[simp] theorem State.releaseWindow_session (ix : SlotIx) : (s.releaseWindow ix).session = s.session := rfl
@[simp] theorem State.releaseWindow_verdict (ix : SlotIx) : (s.releaseWindow ix).verdict = s.verdict := rfl
@[simp] theorem State.releaseWindow_queue (ix : SlotIx) : (s.releaseWindow ix).queue = s.queue := rfl
@[simp] theorem State.releaseWindow_bank (ix : SlotIx) : (s.releaseWindow ix).bank = s.bank := rfl
@[simp] theorem State.releaseWindow_upOut (ix : SlotIx) : (s.releaseWindow ix).upOut = s.upOut := rfl
@[simp] theorem State.releaseWindow_dnOut (ix : SlotIx) : (s.releaseWindow ix).dnOut = s.dnOut := rfl
@[simp] theorem State.releaseWindow_miso (ix : SlotIx) : (s.releaseWindow ix).miso = s.miso := rfl
@[simp] theorem State.releaseWindow_freeDraws (ix : SlotIx) :
    (s.releaseWindow ix).freeDraws = s.freeDraws := rfl

/-! ### `leaveLane`: a head leaving its lane touches the lanes and the arbiter's pointer -/

@[simp] theorem State.leaveLane_pending (n : Initiator) : (s.leaveLane n).pending = s.pending := rfl
@[simp] theorem State.leaveLane_resetn (n : Initiator) : (s.leaveLane n).resetn = s.resetn := rfl
@[simp] theorem State.leaveLane_windows (n : Initiator) : (s.leaveLane n).windows = s.windows := rfl
@[simp] theorem State.leaveLane_contexts (n : Initiator) : (s.leaveLane n).contexts = s.contexts := rfl
@[simp] theorem State.leaveLane_tracker (n : Initiator) : (s.leaveLane n).tracker = s.tracker := rfl
@[simp] theorem State.leaveLane_readStore (n : Initiator) : (s.leaveLane n).readStore = s.readStore := rfl
@[simp] theorem State.leaveLane_deliveryLists (n : Initiator) :
    (s.leaveLane n).deliveryLists = s.deliveryLists := rfl
@[simp] theorem State.leaveLane_respPtr (n : Initiator) : (s.leaveLane n).respPtr = s.respPtr := rfl
@[simp] theorem State.leaveLane_port (n : Initiator) : (s.leaveLane n).port = s.port := rfl
@[simp] theorem State.leaveLane_forward (n : Initiator) : (s.leaveLane n).forward = s.forward := rfl
@[simp] theorem State.leaveLane_waitingResets (n : Initiator) :
    (s.leaveLane n).waitingResets = s.waitingResets := rfl
@[simp] theorem State.leaveLane_revocations (n : Initiator) :
    (s.leaveLane n).revocations = s.revocations := rfl
@[simp] theorem State.leaveLane_log (n : Initiator) : (s.leaveLane n).log = s.log := rfl
@[simp] theorem State.leaveLane_divider (n : Initiator) : (s.leaveLane n).divider = s.divider := rfl
@[simp] theorem State.leaveLane_interval (n : Initiator) : (s.leaveLane n).interval = s.interval := rfl
@[simp] theorem State.leaveLane_tickCount (n : Initiator) : (s.leaveLane n).tickCount = s.tickCount := rfl
@[simp] theorem State.leaveLane_settings (n : Initiator) : (s.leaveLane n).settings = s.settings := rfl
@[simp] theorem State.leaveLane_session (n : Initiator) : (s.leaveLane n).session = s.session := rfl
@[simp] theorem State.leaveLane_verdict (n : Initiator) : (s.leaveLane n).verdict = s.verdict := rfl
@[simp] theorem State.leaveLane_queue (n : Initiator) : (s.leaveLane n).queue = s.queue := rfl
@[simp] theorem State.leaveLane_bank (n : Initiator) : (s.leaveLane n).bank = s.bank := rfl
@[simp] theorem State.leaveLane_upOut (n : Initiator) : (s.leaveLane n).upOut = s.upOut := rfl
@[simp] theorem State.leaveLane_dnOut (n : Initiator) : (s.leaveLane n).dnOut = s.dnOut := rfl
@[simp] theorem State.leaveLane_miso (n : Initiator) : (s.leaveLane n).miso = s.miso := rfl
@[simp] theorem State.leaveLane_freeDraws (n : Initiator) : (s.leaveLane n).freeDraws = s.freeDraws := rfl

/-! ### `enter`: a new entry touches the tracker, the delivery lists and the contexts -/

@[simp] theorem State.enter_pending (n : Initiator) (t : Tag) (e : Entry) :
    (s.enter n t e).pending = s.pending := rfl
@[simp] theorem State.enter_resetn (n : Initiator) (t : Tag) (e : Entry) :
    (s.enter n t e).resetn = s.resetn := rfl
@[simp] theorem State.enter_lanes (n : Initiator) (t : Tag) (e : Entry) :
    (s.enter n t e).lanes = s.lanes := rfl
@[simp] theorem State.enter_admitPtr (n : Initiator) (t : Tag) (e : Entry) :
    (s.enter n t e).admitPtr = s.admitPtr := rfl
@[simp] theorem State.enter_windows (n : Initiator) (t : Tag) (e : Entry) :
    (s.enter n t e).windows = s.windows := rfl
@[simp] theorem State.enter_readStore (n : Initiator) (t : Tag) (e : Entry) :
    (s.enter n t e).readStore = s.readStore := rfl
@[simp] theorem State.enter_respPtr (n : Initiator) (t : Tag) (e : Entry) :
    (s.enter n t e).respPtr = s.respPtr := rfl
@[simp] theorem State.enter_port (n : Initiator) (t : Tag) (e : Entry) : (s.enter n t e).port = s.port := rfl
@[simp] theorem State.enter_forward (n : Initiator) (t : Tag) (e : Entry) :
    (s.enter n t e).forward = s.forward := rfl
@[simp] theorem State.enter_waitingResets (n : Initiator) (t : Tag) (e : Entry) :
    (s.enter n t e).waitingResets = s.waitingResets := rfl
@[simp] theorem State.enter_revocations (n : Initiator) (t : Tag) (e : Entry) :
    (s.enter n t e).revocations = s.revocations := rfl
@[simp] theorem State.enter_log (n : Initiator) (t : Tag) (e : Entry) : (s.enter n t e).log = s.log := rfl
@[simp] theorem State.enter_divider (n : Initiator) (t : Tag) (e : Entry) :
    (s.enter n t e).divider = s.divider := rfl
@[simp] theorem State.enter_interval (n : Initiator) (t : Tag) (e : Entry) :
    (s.enter n t e).interval = s.interval := rfl
@[simp] theorem State.enter_tickCount (n : Initiator) (t : Tag) (e : Entry) :
    (s.enter n t e).tickCount = s.tickCount := rfl
@[simp] theorem State.enter_settings (n : Initiator) (t : Tag) (e : Entry) :
    (s.enter n t e).settings = s.settings := rfl
@[simp] theorem State.enter_session (n : Initiator) (t : Tag) (e : Entry) :
    (s.enter n t e).session = s.session := rfl
@[simp] theorem State.enter_verdict (n : Initiator) (t : Tag) (e : Entry) :
    (s.enter n t e).verdict = s.verdict := rfl
@[simp] theorem State.enter_queue (n : Initiator) (t : Tag) (e : Entry) :
    (s.enter n t e).queue = s.queue := rfl
@[simp] theorem State.enter_bank (n : Initiator) (t : Tag) (e : Entry) : (s.enter n t e).bank = s.bank := rfl
@[simp] theorem State.enter_upOut (n : Initiator) (t : Tag) (e : Entry) :
    (s.enter n t e).upOut = s.upOut := rfl
@[simp] theorem State.enter_dnOut (n : Initiator) (t : Tag) (e : Entry) :
    (s.enter n t e).dnOut = s.dnOut := rfl
@[simp] theorem State.enter_miso (n : Initiator) (t : Tag) (e : Entry) : (s.enter n t e).miso = s.miso := rfl
@[simp] theorem State.enter_freeDraws (n : Initiator) (t : Tag) (e : Entry) :
    (s.enter n t e).freeDraws = s.freeDraws := rfl

/-! ### `handUp`: a delivery before any commit -/

@[simp] theorem State.handUp_pending (n : Initiator) (t : Tag) : (s.handUp n t).pending = s.pending := rfl
@[simp] theorem State.handUp_resetn (n : Initiator) (t : Tag) : (s.handUp n t).resetn = s.resetn := rfl
@[simp] theorem State.handUp_lanes (n : Initiator) (t : Tag) : (s.handUp n t).lanes = s.lanes := rfl
@[simp] theorem State.handUp_admitPtr (n : Initiator) (t : Tag) : (s.handUp n t).admitPtr = s.admitPtr := rfl
@[simp] theorem State.handUp_windows (n : Initiator) (t : Tag) : (s.handUp n t).windows = s.windows := rfl
@[simp] theorem State.handUp_readStore (n : Initiator) (t : Tag) :
    (s.handUp n t).readStore = s.readStore := rfl
@[simp] theorem State.handUp_port (n : Initiator) (t : Tag) : (s.handUp n t).port = s.port := rfl
@[simp] theorem State.handUp_forward (n : Initiator) (t : Tag) : (s.handUp n t).forward = s.forward := rfl
@[simp] theorem State.handUp_waitingResets (n : Initiator) (t : Tag) :
    (s.handUp n t).waitingResets = s.waitingResets := rfl
@[simp] theorem State.handUp_revocations (n : Initiator) (t : Tag) :
    (s.handUp n t).revocations = s.revocations := rfl
@[simp] theorem State.handUp_log (n : Initiator) (t : Tag) : (s.handUp n t).log = s.log := rfl
@[simp] theorem State.handUp_divider (n : Initiator) (t : Tag) : (s.handUp n t).divider = s.divider := rfl
@[simp] theorem State.handUp_interval (n : Initiator) (t : Tag) : (s.handUp n t).interval = s.interval := rfl
@[simp] theorem State.handUp_tickCount (n : Initiator) (t : Tag) :
    (s.handUp n t).tickCount = s.tickCount := rfl
@[simp] theorem State.handUp_settings (n : Initiator) (t : Tag) : (s.handUp n t).settings = s.settings := rfl
@[simp] theorem State.handUp_session (n : Initiator) (t : Tag) : (s.handUp n t).session = s.session := rfl
@[simp] theorem State.handUp_verdict (n : Initiator) (t : Tag) : (s.handUp n t).verdict = s.verdict := rfl
@[simp] theorem State.handUp_queue (n : Initiator) (t : Tag) : (s.handUp n t).queue = s.queue := rfl
@[simp] theorem State.handUp_bank (n : Initiator) (t : Tag) : (s.handUp n t).bank = s.bank := rfl
@[simp] theorem State.handUp_dnOut (n : Initiator) (t : Tag) : (s.handUp n t).dnOut = s.dnOut := rfl
@[simp] theorem State.handUp_miso (n : Initiator) (t : Tag) : (s.handUp n t).miso = s.miso := rfl
@[simp] theorem State.handUp_freeDraws (n : Initiator) (t : Tag) :
    (s.handUp n t).freeDraws = s.freeDraws := rfl

/-! ### `startReset`: the start of a memory port reset -/

@[simp] theorem State.startReset_pending : (s.startReset).pending = s.pending := by
  unfold State.startReset; rfl
@[simp] theorem State.startReset_resetn : (s.startReset).resetn = s.resetn := by
  unfold State.startReset; rfl
@[simp] theorem State.startReset_lanes : (s.startReset).lanes = s.lanes := by
  unfold State.startReset; rfl
@[simp] theorem State.startReset_admitPtr : (s.startReset).admitPtr = s.admitPtr := by
  unfold State.startReset; rfl
@[simp] theorem State.startReset_contexts : (s.startReset).contexts = s.contexts := by
  unfold State.startReset; rfl
@[simp] theorem State.startReset_readStore : (s.startReset).readStore = s.readStore := by
  unfold State.startReset; rfl
@[simp] theorem State.startReset_deliveryLists : (s.startReset).deliveryLists = s.deliveryLists := by
  unfold State.startReset; rfl
@[simp] theorem State.startReset_respPtr : (s.startReset).respPtr = s.respPtr := by
  unfold State.startReset; rfl
@[simp] theorem State.startReset_waitingResets : (s.startReset).waitingResets = s.waitingResets := by
  unfold State.startReset; rfl
@[simp] theorem State.startReset_revocations : (s.startReset).revocations = s.revocations := by
  unfold State.startReset; rfl
@[simp] theorem State.startReset_log : (s.startReset).log = s.log := by
  unfold State.startReset; rfl
@[simp] theorem State.startReset_divider : (s.startReset).divider = s.divider := by
  unfold State.startReset; rfl
@[simp] theorem State.startReset_interval : (s.startReset).interval = s.interval := by
  unfold State.startReset; rfl
@[simp] theorem State.startReset_tickCount : (s.startReset).tickCount = s.tickCount := by
  unfold State.startReset; rfl
@[simp] theorem State.startReset_settings : (s.startReset).settings = s.settings := by
  unfold State.startReset; rfl
@[simp] theorem State.startReset_session : (s.startReset).session = s.session := by
  unfold State.startReset; rfl
@[simp] theorem State.startReset_verdict : (s.startReset).verdict = s.verdict := by
  unfold State.startReset; rfl
@[simp] theorem State.startReset_queue : (s.startReset).queue = s.queue := by
  unfold State.startReset; rfl
@[simp] theorem State.startReset_bank : (s.startReset).bank = s.bank := by
  unfold State.startReset; rfl
@[simp] theorem State.startReset_upOut : (s.startReset).upOut = s.upOut := by
  unfold State.startReset; rfl
@[simp] theorem State.startReset_dnOut : (s.startReset).dnOut = s.dnOut := by
  unfold State.startReset; rfl
@[simp] theorem State.startReset_miso : (s.startReset).miso = s.miso := by
  unfold State.startReset; rfl
@[simp] theorem State.startReset_freeDraws : (s.startReset).freeDraws = s.freeDraws := by
  unfold State.startReset; rfl

/-! ### `becomeReady`: the port becoming READY -/

@[simp] theorem State.becomeReady_pending : (s.becomeReady).pending = s.pending := rfl
@[simp] theorem State.becomeReady_resetn : (s.becomeReady).resetn = s.resetn := rfl
@[simp] theorem State.becomeReady_lanes : (s.becomeReady).lanes = s.lanes := rfl
@[simp] theorem State.becomeReady_admitPtr : (s.becomeReady).admitPtr = s.admitPtr := rfl
@[simp] theorem State.becomeReady_windows : (s.becomeReady).windows = s.windows := rfl
@[simp] theorem State.becomeReady_contexts : (s.becomeReady).contexts = s.contexts := rfl
@[simp] theorem State.becomeReady_tracker : (s.becomeReady).tracker = s.tracker := rfl
@[simp] theorem State.becomeReady_readStore : (s.becomeReady).readStore = s.readStore := rfl
@[simp] theorem State.becomeReady_deliveryLists : (s.becomeReady).deliveryLists = s.deliveryLists := rfl
@[simp] theorem State.becomeReady_respPtr : (s.becomeReady).respPtr = s.respPtr := rfl
@[simp] theorem State.becomeReady_forward : (s.becomeReady).forward = s.forward := rfl
@[simp] theorem State.becomeReady_revocations : (s.becomeReady).revocations = s.revocations := rfl
@[simp] theorem State.becomeReady_log : (s.becomeReady).log = s.log := rfl
@[simp] theorem State.becomeReady_divider : (s.becomeReady).divider = s.divider := rfl
@[simp] theorem State.becomeReady_interval : (s.becomeReady).interval = s.interval := rfl
@[simp] theorem State.becomeReady_tickCount : (s.becomeReady).tickCount = s.tickCount := rfl
@[simp] theorem State.becomeReady_settings : (s.becomeReady).settings = s.settings := rfl
@[simp] theorem State.becomeReady_session : (s.becomeReady).session = s.session := rfl
@[simp] theorem State.becomeReady_verdict : (s.becomeReady).verdict = s.verdict := rfl
@[simp] theorem State.becomeReady_queue : (s.becomeReady).queue = s.queue := rfl
@[simp] theorem State.becomeReady_upOut : (s.becomeReady).upOut = s.upOut := rfl
@[simp] theorem State.becomeReady_dnOut : (s.becomeReady).dnOut = s.dnOut := rfl
@[simp] theorem State.becomeReady_miso : (s.becomeReady).miso = s.miso := rfl
@[simp] theorem State.becomeReady_freeDraws : (s.becomeReady).freeDraws = s.freeDraws := rfl

/-! ### `tickNow`: the tick itself -/

@[simp] theorem State.tickNow_pending : (s.tickNow).pending = s.pending := by
  unfold State.tickNow; rfl
@[simp] theorem State.tickNow_resetn : (s.tickNow).resetn = s.resetn := by
  unfold State.tickNow; rfl
@[simp] theorem State.tickNow_lanes : (s.tickNow).lanes = s.lanes := by
  unfold State.tickNow; rfl
@[simp] theorem State.tickNow_admitPtr : (s.tickNow).admitPtr = s.admitPtr := by
  unfold State.tickNow; rfl
@[simp] theorem State.tickNow_windows : (s.tickNow).windows = s.windows := by
  unfold State.tickNow; rfl
@[simp] theorem State.tickNow_readStore : (s.tickNow).readStore = s.readStore := by
  unfold State.tickNow; rfl
@[simp] theorem State.tickNow_deliveryLists : (s.tickNow).deliveryLists = s.deliveryLists := by
  unfold State.tickNow; rfl
@[simp] theorem State.tickNow_respPtr : (s.tickNow).respPtr = s.respPtr := by
  unfold State.tickNow; rfl
@[simp] theorem State.tickNow_forward : (s.tickNow).forward = s.forward := by
  unfold State.tickNow; rfl
@[simp] theorem State.tickNow_waitingResets : (s.tickNow).waitingResets = s.waitingResets := by
  unfold State.tickNow; rfl
@[simp] theorem State.tickNow_log : (s.tickNow).log = s.log := by
  unfold State.tickNow; rfl
@[simp] theorem State.tickNow_settings : (s.tickNow).settings = s.settings := by
  unfold State.tickNow; rfl
@[simp] theorem State.tickNow_session : (s.tickNow).session = s.session := by
  unfold State.tickNow; rfl
@[simp] theorem State.tickNow_verdict : (s.tickNow).verdict = s.verdict := by
  unfold State.tickNow; rfl
@[simp] theorem State.tickNow_queue : (s.tickNow).queue = s.queue := by
  unfold State.tickNow; rfl
@[simp] theorem State.tickNow_bank : (s.tickNow).bank = s.bank := by
  unfold State.tickNow; rfl
@[simp] theorem State.tickNow_upOut : (s.tickNow).upOut = s.upOut := by
  unfold State.tickNow; rfl
@[simp] theorem State.tickNow_dnOut : (s.tickNow).dnOut = s.dnOut := by
  unfold State.tickNow; rfl
@[simp] theorem State.tickNow_miso : (s.tickNow).miso = s.miso := by
  unfold State.tickNow; rfl
@[simp] theorem State.tickNow_freeDraws : (s.tickNow).freeDraws = s.freeDraws := by
  unfold State.tickNow; rfl

/-! ### `acceptRevoke`: an acceptance -/

@[simp] theorem State.acceptRevoke_pending (root : Handle) (k : RespIx) :
    (s.acceptRevoke root k).pending = s.pending := by
  simp only [State.acceptRevoke, State.fillAll_pending, State.logAll_pending]
@[simp] theorem State.acceptRevoke_resetn (root : Handle) (k : RespIx) :
    (s.acceptRevoke root k).resetn = s.resetn := by
  simp only [State.acceptRevoke, State.fillAll_resetn, State.logAll_resetn]
@[simp] theorem State.acceptRevoke_lanes (root : Handle) (k : RespIx) :
    (s.acceptRevoke root k).lanes = s.lanes := by
  simp only [State.acceptRevoke, State.fillAll_lanes, State.logAll_lanes]
@[simp] theorem State.acceptRevoke_admitPtr (root : Handle) (k : RespIx) :
    (s.acceptRevoke root k).admitPtr = s.admitPtr := by
  simp only [State.acceptRevoke, State.fillAll_admitPtr, State.logAll_admitPtr]
@[simp] theorem State.acceptRevoke_tracker (root : Handle) (k : RespIx) :
    (s.acceptRevoke root k).tracker = s.tracker := by
  simp only [State.acceptRevoke, State.fillAll_tracker, State.logAll_tracker]
@[simp] theorem State.acceptRevoke_readStore (root : Handle) (k : RespIx) :
    (s.acceptRevoke root k).readStore = s.readStore := by
  simp only [State.acceptRevoke, State.fillAll_readStore, State.logAll_readStore]
@[simp] theorem State.acceptRevoke_deliveryLists (root : Handle) (k : RespIx) :
    (s.acceptRevoke root k).deliveryLists = s.deliveryLists := by
  simp only [State.acceptRevoke, State.fillAll_deliveryLists, State.logAll_deliveryLists]
@[simp] theorem State.acceptRevoke_respPtr (root : Handle) (k : RespIx) :
    (s.acceptRevoke root k).respPtr = s.respPtr := by
  simp only [State.acceptRevoke, State.fillAll_respPtr, State.logAll_respPtr]
@[simp] theorem State.acceptRevoke_port (root : Handle) (k : RespIx) :
    (s.acceptRevoke root k).port = s.port := by
  simp only [State.acceptRevoke, State.fillAll_port, State.logAll_port]
@[simp] theorem State.acceptRevoke_forward (root : Handle) (k : RespIx) :
    (s.acceptRevoke root k).forward = s.forward := by
  simp only [State.acceptRevoke, State.fillAll_forward, State.logAll_forward]
@[simp] theorem State.acceptRevoke_waitingResets (root : Handle) (k : RespIx) :
    (s.acceptRevoke root k).waitingResets = s.waitingResets := by
  simp only [State.acceptRevoke, State.fillAll_waitingResets, State.logAll_waitingResets]
@[simp] theorem State.acceptRevoke_divider (root : Handle) (k : RespIx) :
    (s.acceptRevoke root k).divider = s.divider := by
  simp only [State.acceptRevoke, State.fillAll_divider, State.logAll_divider]
@[simp] theorem State.acceptRevoke_interval (root : Handle) (k : RespIx) :
    (s.acceptRevoke root k).interval = s.interval := by
  simp only [State.acceptRevoke, State.fillAll_interval, State.logAll_interval]
@[simp] theorem State.acceptRevoke_tickCount (root : Handle) (k : RespIx) :
    (s.acceptRevoke root k).tickCount = s.tickCount := by
  simp only [State.acceptRevoke, State.fillAll_tickCount, State.logAll_tickCount]
@[simp] theorem State.acceptRevoke_settings (root : Handle) (k : RespIx) :
    (s.acceptRevoke root k).settings = s.settings := by
  simp only [State.acceptRevoke, State.fillAll_settings, State.logAll_settings]
@[simp] theorem State.acceptRevoke_session (root : Handle) (k : RespIx) :
    (s.acceptRevoke root k).session = s.session := by
  simp only [State.acceptRevoke, State.fillAll_session, State.logAll_session]
@[simp] theorem State.acceptRevoke_verdict (root : Handle) (k : RespIx) :
    (s.acceptRevoke root k).verdict = s.verdict := by
  simp only [State.acceptRevoke, State.fillAll_verdict, State.logAll_verdict]
@[simp] theorem State.acceptRevoke_queue (root : Handle) (k : RespIx) :
    (s.acceptRevoke root k).queue = s.queue := by
  simp only [State.acceptRevoke, State.fillAll_queue, State.logAll_queue]
@[simp] theorem State.acceptRevoke_upOut (root : Handle) (k : RespIx) :
    (s.acceptRevoke root k).upOut = s.upOut := by
  simp only [State.acceptRevoke, State.fillAll_upOut, State.logAll_upOut]
@[simp] theorem State.acceptRevoke_dnOut (root : Handle) (k : RespIx) :
    (s.acceptRevoke root k).dnOut = s.dnOut := by
  simp only [State.acceptRevoke, State.fillAll_dnOut, State.logAll_dnOut]
@[simp] theorem State.acceptRevoke_miso (root : Handle) (k : RespIx) :
    (s.acceptRevoke root k).miso = s.miso := by
  simp only [State.acceptRevoke, State.fillAll_miso, State.logAll_miso]
@[simp] theorem State.acceptRevoke_freeDraws (root : Handle) (k : RespIx) :
    (s.acceptRevoke root k).freeDraws = s.freeDraws := by
  simp only [State.acceptRevoke, State.fillAll_freeDraws, State.logAll_freeDraws]

/-! ### `freeSubtree`: a free -/

@[simp] theorem State.freeSubtree_pending (pos : Nat) (e : RevEntry) :
    (s.freeSubtree pos e).pending = s.pending := by
  simp only [State.freeSubtree, State.fillAll_pending]
@[simp] theorem State.freeSubtree_resetn (pos : Nat) (e : RevEntry) :
    (s.freeSubtree pos e).resetn = s.resetn := by
  simp only [State.freeSubtree, State.fillAll_resetn]
@[simp] theorem State.freeSubtree_lanes (pos : Nat) (e : RevEntry) :
    (s.freeSubtree pos e).lanes = s.lanes := by
  simp only [State.freeSubtree, State.fillAll_lanes]
@[simp] theorem State.freeSubtree_admitPtr (pos : Nat) (e : RevEntry) :
    (s.freeSubtree pos e).admitPtr = s.admitPtr := by
  simp only [State.freeSubtree, State.fillAll_admitPtr]
@[simp] theorem State.freeSubtree_contexts (pos : Nat) (e : RevEntry) :
    (s.freeSubtree pos e).contexts = s.contexts := by
  simp only [State.freeSubtree, State.fillAll_contexts]
@[simp] theorem State.freeSubtree_tracker (pos : Nat) (e : RevEntry) :
    (s.freeSubtree pos e).tracker = s.tracker := by
  simp only [State.freeSubtree, State.fillAll_tracker]
@[simp] theorem State.freeSubtree_readStore (pos : Nat) (e : RevEntry) :
    (s.freeSubtree pos e).readStore = s.readStore := by
  simp only [State.freeSubtree, State.fillAll_readStore]
@[simp] theorem State.freeSubtree_deliveryLists (pos : Nat) (e : RevEntry) :
    (s.freeSubtree pos e).deliveryLists = s.deliveryLists := by
  simp only [State.freeSubtree, State.fillAll_deliveryLists]
@[simp] theorem State.freeSubtree_respPtr (pos : Nat) (e : RevEntry) :
    (s.freeSubtree pos e).respPtr = s.respPtr := by
  simp only [State.freeSubtree, State.fillAll_respPtr]
@[simp] theorem State.freeSubtree_port (pos : Nat) (e : RevEntry) : (s.freeSubtree pos e).port = s.port := by
  simp only [State.freeSubtree, State.fillAll_port]
@[simp] theorem State.freeSubtree_forward (pos : Nat) (e : RevEntry) :
    (s.freeSubtree pos e).forward = s.forward := by
  simp only [State.freeSubtree, State.fillAll_forward]
@[simp] theorem State.freeSubtree_waitingResets (pos : Nat) (e : RevEntry) :
    (s.freeSubtree pos e).waitingResets = s.waitingResets := by
  simp only [State.freeSubtree, State.fillAll_waitingResets]
@[simp] theorem State.freeSubtree_log (pos : Nat) (e : RevEntry) : (s.freeSubtree pos e).log = s.log := by
  simp only [State.freeSubtree, State.fillAll_log]
@[simp] theorem State.freeSubtree_divider (pos : Nat) (e : RevEntry) :
    (s.freeSubtree pos e).divider = s.divider := by
  simp only [State.freeSubtree, State.fillAll_divider]
@[simp] theorem State.freeSubtree_interval (pos : Nat) (e : RevEntry) :
    (s.freeSubtree pos e).interval = s.interval := by
  simp only [State.freeSubtree, State.fillAll_interval]
@[simp] theorem State.freeSubtree_tickCount (pos : Nat) (e : RevEntry) :
    (s.freeSubtree pos e).tickCount = s.tickCount := by
  simp only [State.freeSubtree, State.fillAll_tickCount]
@[simp] theorem State.freeSubtree_settings (pos : Nat) (e : RevEntry) :
    (s.freeSubtree pos e).settings = s.settings := by
  simp only [State.freeSubtree, State.fillAll_settings]
@[simp] theorem State.freeSubtree_session (pos : Nat) (e : RevEntry) :
    (s.freeSubtree pos e).session = s.session := by
  simp only [State.freeSubtree, State.fillAll_session]
@[simp] theorem State.freeSubtree_verdict (pos : Nat) (e : RevEntry) :
    (s.freeSubtree pos e).verdict = s.verdict := by
  simp only [State.freeSubtree, State.fillAll_verdict]
@[simp] theorem State.freeSubtree_queue (pos : Nat) (e : RevEntry) :
    (s.freeSubtree pos e).queue = s.queue := by
  simp only [State.freeSubtree, State.fillAll_queue]
@[simp] theorem State.freeSubtree_upOut (pos : Nat) (e : RevEntry) :
    (s.freeSubtree pos e).upOut = s.upOut := by
  simp only [State.freeSubtree, State.fillAll_upOut]
@[simp] theorem State.freeSubtree_dnOut (pos : Nat) (e : RevEntry) :
    (s.freeSubtree pos e).dnOut = s.dnOut := by
  simp only [State.freeSubtree, State.fillAll_dnOut]
@[simp] theorem State.freeSubtree_miso (pos : Nat) (e : RevEntry) : (s.freeSubtree pos e).miso = s.miso := by
  simp only [State.freeSubtree, State.fillAll_miso]
@[simp] theorem State.freeSubtree_freeDraws (pos : Nat) (e : RevEntry) :
    (s.freeSubtree pos e).freeDraws = s.freeDraws := by
  simp only [State.freeSubtree, State.fillAll_freeDraws]

end Sys2Proof.Machine
end

