-- ==== Sys2Proof/Tests/Slice0.lean ====
section
/-! SUPPORT. The model's own tests: ill-formed commands, one or two steps for each command with results taken from the
spec's rules and worked examples, and for each statement a state and operands that meet its hypotheses together. -/

namespace Sys2Proof.Tests

open Sys2Proof.Machine

/- One test after another: each asks the kernel, and a thread for each at once is more than a machine holds. -/
set_option Elab.async false

/-! ### Small states -/

/-- What a step answers, where it answers a state. -/
def after (c : Instr) (s : State) : State :=
  match exec c s with
  | .next t => t
  | _ => s

/-- Slot 1: [0x1000, 0x3000), everything granted, every holder. -/
def childWindow : Window where
  parent := some 0
  depth := 1
  base := 0x1000
  limit := 0x3000
  perms := ⟨true, true, true⟩
  holders := 255#8
  reloc := none
  offset := 0
  children := slotBit 2
  inFlight := 0

/-- Slot 2, below slot 1: [0x1000, 0x2000), READ alone, held by I0. -/
def grandchildWindow : Window where
  parent := some 1
  depth := 2
  base := 0x1000
  limit := 0x2000
  perms := ⟨true, false, false⟩
  holders := 1#8
  reloc := none
  offset := 0
  children := 0#64
  inFlight := 0

def h1 : Handle := ⟨1, 0#8⟩
def h2 : Handle := ⟨2, 5#8⟩

/-- The root, slot 1 below it, slot 2 (generation 5) below that. -/
def tree : Vector WindowSlot 64 :=
  ((resetWindows.set 0 ⟨0#8, .live { rootWindow with children := slotBit 1 }⟩).set 1
    ⟨0#8, .live childWindow⟩).set 2 ⟨5#8, .live grandchildWindow⟩

/-- I0: OPEN, default 1/0, nothing undelivered. -/
def context0 : Context := { resetContext with state := .opened, current := some h1 }

/-- The part out of reset, its port READY, the tree built and I0 open. -/
def running : State :=
  { State.reset with
    resetn := true
    port := .ready
    windows := tree
    contexts := State.reset.contexts.set 0 context0 }

/-- The same with one request in the lane of I0. -/
def asking (r : Request) : State :=
  { running with lanes := running.lanes.set 0 [r] }

/-- The same with one command frame waiting, sequence 7. -/
def commanded (code : CommandCode) (payload : List Byte) : State :=
  { running with queue := [⟨7#8, code, payload⟩] }

/-- The queue's head can be taken into response slot 0. -/
theorem takes_commanded (code : CommandCode) (payload : List Byte) :
    Takes (commanded code payload) ⟨7#8, code, payload⟩ [] 0 :=
  ⟨rfl, rfl, rfl, fun j hj => absurd hj (Fin.not_lt_zero j)⟩

/-- A READ of 2 beats by I0 under slot 1. -/
def txn : Txn := ⟨0, 1, .read, 0x1000#40, 1⟩

/-- Entry 0 of I0 in some state after its take, counted under slot 1 or not. -/
def tracked (e : Entry) (counted : Nat) : State :=
  { running with
    tracker := running.tracker.set 0 e
    deliveryLists := running.deliveryLists.set 0 [0]
    contexts := running.contexts.set 0 { context0 with undelivered := 1 }
    windows := running.windows.set 1 ⟨0#8, .live { childWindow with inFlight := counted }⟩ }

/-- A READ request. -/
def read (addr : Addr) (len : Fin 16) (h : Option Handle := none) : Request := ⟨.read, addr, len, [], h⟩

/-- A WRITE request. -/
def write (addr : Addr) (len : Fin 16) (h : Option Handle := none) : Request :=
  ⟨.write, addr, len, List.replicate (beatCount len) 0xAB#64, h⟩

/-- A response slot answered with an outcome and payload, for the command of sequence 7. -/
def answeredWith (s : State) (code : CommandCode) (o : CmdOutcome) (p : List Byte) : Bool :=
  s.bank.slots[0] == .filled ⟨7#8, code, o, p⟩ && s.bank.order == [0] && s.queue == []

/-- A whole session that clocks these bytes. -/
def sessionEdges (bytes : List Byte) : List SpiEdge :=
  .csFall :: bytes.flatMap byteEdges ++ [.csRise]

/-! ### Ill-formed commands -/

/-- A WRITE of 2 beats that brings 1 (R28). -/
theorem test_wf_refuses_short_write : (Instr.upstreamRequest 0 ⟨.write, 0#40, 1, [0#64], none⟩).wf = false := by
  decide
/-- A READ that brings data (R28). -/
theorem test_wf_refuses_read_with_data : (Instr.upstreamRequest 0 ⟨.read, 0#40, 0, [0#64], none⟩).wf = false := by
  decide
/-- SCLK idles low while CS is high, so it falls before CS rises (R171). -/
theorem test_wf_refuses_cs_over_clock : (Instr.commandFrame [.csFall, .sclkRise true, .csRise]).wf = false := by decide
/-- Two rising edges of SCLK with none falling between (R171). -/
theorem test_wf_refuses_double_rise : (Instr.fetchEnd [.sclkRise true, .sclkRise true]).wf = false := by decide
/-- A FETCH that goes on has its CS low already (R171). -/
theorem test_wf_refuses_fetch_restart : (Instr.fetchEnd [.csFall, .csRise]).wf = false := by decide
theorem test_wf_accepts_session : (Instr.commandFrame (sessionEdges [0x5A#8, 0x11#8])).wf = true := by decide
theorem test_wf_accepts_write : (Instr.upstreamRequest 0 (write 0x1000#40 15)).wf = true := by decide

/-! ### Reset and time -/

/-- R55: BOOTID2..0 at 5 opens I5 with default 0/0. -/
theorem test_release_boot :
    (after (.resetnRelease true 5 false) State.reset).contexts[(5 : Initiator)]
      = ⟨.opened, .answer, some ⟨0, 0#8⟩, .none, 0⟩ := by decide +kernel
/-- R169, R191: a reset drops the settings and every default. -/
theorem test_assert_drops_settings :
    (after .resetnAssert { running with settings := { powerOnSettings with prescale := 7 } }).settings.prescale = 100
      ∧ (after .resetnAssert running).contexts[(0 : Initiator)].current = none := by decide +kernel
/-- R184: a session in progress is abandoned, shifts zeros while RESETN is low, and is ignored at its end. -/
theorem test_assert_abandons_session :
    (after (.commandFrame [.sclkFall, .sclkRise true]) (after .resetnAssert
      { running with session := some ⟨.command [0x5A#8], true, [], 0xFF#8, true⟩ })).miso = [false]
      ∧ (after (.commandFrame [.sclkFall, .csRise]) (after .resetnAssert
        { running with session := some ⟨.command [0x5A#8], true, [], 0xFF#8, true⟩ })).session = none
      ∧ (after (.commandFrame [.sclkFall, .csRise]) (after .resetnAssert
        { running with session := some ⟨.command [0x5A#8], true, [], 0xFF#8, true⟩ })).verdict = .accepted := by
  decide +kernel
/-- R164: with the power-on interval of 100, the period that finds 99 counted is the tick. -/
theorem test_hundredth_period_ticks :
    (({ running with divider := 99 }).refclkPeriod.tickCount, ({ running with divider := 98 }).refclkPeriod.tickCount)
      = (1#32, 0#32) := by decide +kernel
/-- Section 9.5: tag 3 at 100 against a timeout of 64 expires at the next tick. -/
theorem test_timeout_lowered :
    ((after .responseTimeout (after .tick
      { tracked (.issued txn 100 false) 1 with
        settings := { powerOnSettings with responseTimeout := 64 } })).tracker[(0 : Tag)]) = .expired txn true := by
  decide +kernel
/-- R167, section 9.2: with the setting 0 the timer counts on and does not expire. -/
theorem test_timeout_off :
    ((after .responseTimeout (after .tick
      { tracked (.issued txn 100 false) 1 with
        settings := { powerOnSettings with responseTimeout := 0 } })).tracker[(0 : Tag)]) = .issued txn 101 false := by
  decide +kernel

/-! ### Admission -/

/-- R29: the fifth request is held back. -/
theorem test_full_lane :
    (after (.upstreamRequest 0 (read 0#40 0)) { running with
      lanes := running.lanes.set 0 (List.replicate 4 (read 8#40 0)) }).lanes[(0 : Initiator)].length = 4 := by
  decide +kernel
/-- R37: a 16-beat READ at 0xF80 ends exactly on the page; at 0xF88 it crosses it. -/
theorem test_page_boundary : wellPlaced (read 0xF80#40 15) = true ∧ wellPlaced (read 0xF88#40 15) = false := by
  decide
/-- R40: an access that ends exactly at the limit is admitted; section 1.12, event 7 for the count. -/
theorem test_take_admits_to_the_limit :
    (after .take (asking (read 0x2F80#40 15))).tracker[(0 : Tag)] = .queued ⟨0, 1, .read, 0x2F80#40, 15⟩ []
      ∧ (after .take (asking (read 0x2F80#40 15))).windows[(1 : SlotIx)].inFlight = 1 := by decide +kernel
/-- R38, section 1.12, event 11: a handle of an old generation is STALE_HANDLE before anything else of it. -/
theorem test_take_stale_before_holder :
    (after .take (asking (write 0x1000#40 0 (some ⟨2, 4#8⟩)))).log.records.map (·.kind) = [.staleHandle] := by
  decide +kernel

/-! ### The memory port -/

/-- Section 1.12, event 7: 0x00_8000_1000 under an offset of 4 GiB goes out at 0x01_8000_1000. -/
theorem test_accept_translates :
    ((after .downstreamAccept
      { running with
        forward := [3]
        tracker := running.tracker.set 3 (.queued ⟨0, 1, .read, 0x0080001000#40, 3⟩ [])
        windows := running.windows.set 1
          ⟨0#8, .live { childWindow with offset := 0x100000000 }⟩ }).dnOut.map (·.addr)) = some 0x0180001000#40 := by
  decide +kernel
/-- R105: an OK READ with too few beats is treated as ERROR. -/
theorem test_short_read_is_error :
    (after (.downstreamResponse 0 .ok [1#64]) (tracked (.issued txn 0 false) 1)).tracker[(0 : Tag)]
      = .done txn .memoryError := by decide +kernel
/-- R107, R96: the late response of an orphan frees it and lowers the count. -/
theorem test_late_response_frees_orphan :
    (after (.downstreamResponse 0 .error []) (tracked (.orphaned txn) 1)).tracker[(0 : Tag)] = .free
      ∧ (after (.downstreamResponse 0 .error []) (tracked (.orphaned txn) 1)).windows[(1 : SlotIx)].inFlight = 0 := by
  decide +kernel
/-- R114: the 16th tick and no earlier one ends the hold. -/
theorem test_hold_needs_sixteen :
    (after (.holdEnd true) { running with port := .holding 15 }).port = .holding 15
      ∧ (after (.holdEnd true) { running with port := .holding 16 }).port = .ready := by decide +kernel
/-- R100: DNREADY is consulted in AWAITING_READY alone. -/
theorem test_port_ready :
    (after .portReady { running with port := .awaitingReady }).port = .ready
      ∧ (after .portReady { running with port := .holding 3 }).port = .holding 3 := by decide +kernel
/-- R113: QUEUED becomes DONE with PORT_RESET and its count falls. -/
theorem test_port_reset :
    (after .resetMemoryPort { tracked (.queued txn []) 1 with
      queue := [⟨7#8, .resetMemoryPort, []⟩], forward := [0] }).tracker[(0 : Tag)] = .done txn .portReset
      ∧ (after .resetMemoryPort { tracked (.queued txn []) 1 with
      queue := [⟨7#8, .resetMemoryPort, []⟩], forward := [0] }).windows[(1 : SlotIx)].inFlight = 0 := by
  decide +kernel

/-! ### Delivery and commit -/

/-- R93: a timed-out READ of 2 beats carries 2 beats of zeros, and its entry is ORPHANED (R92). -/
theorem test_deliver_timeout :
    (after (.delivery 1#8) (tracked (.expired txn true) 1)).upOut = some (0, ⟨.timeout, [0#64, 0#64]⟩)
      ∧ (after (.delivery 1#8) (tracked (.expired txn true) 1)).tracker[(0 : Tag)] = .orphaned txn := by decide +kernel
/-- R90: an initiator that is not accepting is passed over. -/
theorem test_deliver_not_accepting :
    (after (.delivery 0xFE#8) (tracked (.done txn .okay) 0)).upOut = none := by decide +kernel

/-- I0 with a binding of 2/5 staged by the command in response slot 3, and one entry ready to go up. -/
def stagedState (due : Bool) : State :=
  { tracked (.done txn .okay) 0 with
    contexts := running.contexts.set 0
      { context0 with undelivered := 1, rebind := .staged ⟨some h2, 3, 9, due⟩ }
    bank := { running.bank with slots := running.bank.slots.set 3 (.reserved 9#8 .bindDefault) } }

/-- R66: the delivery that brings the count to 0 commits. -/
theorem test_commit_at_last_delivery :
    (after (.stagedCommit 1#8) (stagedState false)).contexts[(0 : Initiator)] = { context0 with current := some h2 }
      ∧ (after (.stagedCommit 1#8) (stagedState false)).bank.order = [3] := by decide +kernel
/-- R68: the expiry fences the lane and logs FENCE_BEGUN for the pending handle. -/
theorem test_fence :
    (after .drainTimerExpiry (stagedState true)).contexts[(0 : Initiator)].rebind = .fencing ⟨some h2, 3, 9, false⟩
      ∧ (after .drainTimerExpiry (stagedState true)).log.records.map (fun r => (r.kind, r.desc.window))
        = [(.fenceBegun, some 2)] := by decide +kernel

/-! ### The management link -/

/-- R187: the EMPTY frame's CRC is 0x15. -/
theorem test_empty_frame_crc : emptyFrame = [0#8, 0#8, 1#8, 0#8, 0x15#8] := by decide +kernel
/-- R188: QUEUE_FULL with queue 4 and four filled slots and the alert bit reads 0xB1. -/
theorem test_status_byte :
    ({ running with
      verdict := .queueFull
      queue := List.replicate 4 ⟨0#8, .readEvent, []⟩
      bank := ⟨(Vector.replicate 8 (.filled ⟨0#8, .readEvent, .empty, []⟩)).set 4 .empty |>.set 5 .empty
        |>.set 6 .empty |>.set 7 .empty, [0, 1, 2, 3]⟩ } : State).statusByte = 0xB1#8 := by decide +kernel
/-- R173, R174: the fifth frame is QUEUE_FULL, a wrong CRC BAD_CRC, and test 1 comes before it. -/
theorem test_verdicts :
    (after (.commandFrame (sessionEdges (Frame.bytes ⟨9#8, .readEvent, []⟩)))
        { running with queue := List.replicate 4 ⟨0#8, .readEvent, []⟩ }).verdict = .queueFull
      ∧ (after (.commandFrame (sessionEdges [0x5A#8, 9#8, 0x0A#8, 0#8, 0#8])) running).verdict = .badCrc
      ∧ (after (.commandFrame (sessionEdges [0x5B#8, 9#8, 0x0A#8, 0#8, 0#8])) running).verdict = .unknownCommand := by
  decide +kernel
/-- R172: the byte after a take shows the queue and the slots as they stand then (5 x 2 + 1, alert), whatever the
byte before showed. -/
theorem test_fresh_status_byte :
    (after (.commandFrame (.sclkFall :: byteEdges 7#8))
      { running with
        queue := List.replicate 2 ⟨0#8, .readEvent, []⟩
        bank := ⟨running.bank.slots.set 0 (.filled ⟨0#8, .readEvent, .empty, []⟩), [0]⟩
        session := some ⟨.command [0x5A#8], true, [], 0x0F#8, true⟩ }).miso = byteBits 0x8B#8 := by decide +kernel
/-- R188: high impedance while CS is high. -/
theorem test_miso_pin : running.misoPin = none
    ∧ (after (.commandFrame [.csFall]) { running with verdict := .unknownCommand }).misoPin = some false := by
  decide +kernel

/-- Slot 2 filled with the answer EMPTY of READ_EVENT, sequence 0x4E. -/
def filledState : State :=
  { running with
    bank := ⟨running.bank.slots.set 2 (.filled ⟨0x4E#8, .readEvent, .empty, []⟩), [2]⟩ }

/-- The rest of a FETCH session that clocks `n` bytes after its type byte. -/
def fetchEdges (n : Nat) : List SpiEdge :=
  .sclkFall :: (List.replicate n 0x5A#8).flatMap byteEdges ++ [.csRise]

/-- Section 10.10, steps 9 and 10: cut short, the slot stays; clocked out whole, it is emptied. -/
theorem test_fetch_whole_and_cut :
    (after (.fetchEnd (fetchEdges 4)) (after .fetchSelect filledState)).bank = filledState.bank
      ∧ (after (.fetchEnd (fetchEdges 5)) (after .fetchSelect filledState)).bank.order = [] := by decide +kernel
/-- R175: nothing filled, the EMPTY frame is shifted, then zeros. -/
theorem test_fetch_empty :
    (after (.fetchEnd (fetchEdges 6)) (after .fetchSelect running)).miso
      = ([0#8] ++ emptyFrame ++ [0#8]).flatMap byteBits := by decide +kernel

/-! ### Window commands -/

/-- Section 1.12, event 2: a depth-1 window with relocation +0x01_0000_0000. -/
theorem test_derive_relocated :
    (after .derive (commanded .derive (encodeDerive ⟨0, 0#8⟩ 0x80000000 0x90000000 ⟨true, true, true⟩ 0x18#8
      (some 0x100000000)))).windows[(3 : SlotIx)].occ.window?.map (fun w => (w.depth, w.offset, w.reloc))
      = some (1, 0x100000000, some 0x100000000) := by decide +kernel
/-- Section 1.12, event 5: a depth-2 window cannot be relocated. -/
theorem test_derive_bad_relocation :
    answeredWith (after .derive (commanded .derive
      (encodeDerive h1 0x1000 0x2000 ⟨true, false, false⟩ 8#8 (some 0x10000000)))) .derive .badRelocation [] = true := by
  decide +kernel
/-- R129: slot 2 keeps slot 1's base in place. -/
theorem test_shrink_child_conflict :
    answeredWith (after .shrink (commanded .shrink (encodeShrink h1 0x1040 0x3000 ⟨true, true, true⟩ 255#8)))
      .shrink .childConflict [] = true := by decide +kernel
/-- R131: the four values are replaced together. -/
theorem test_shrink_narrows :
    (after .shrink (commanded .shrink (encodeShrink h2 0x1040 0x1080 ⟨false, false, false⟩ 0#8))).windows[(2 : SlotIx)]
      = ⟨5#8, .live { grandchildWindow with
          base := 0x1040, limit := 0x1080, perms := ⟨false, false, false⟩, holders := 0#8 }⟩ := by decide +kernel
/-- R136: the FREE slot 63 reads back as state 0 and zeros. -/
theorem test_read_window_free :
    answeredWith (after .readWindow (commanded .readWindow [63#8])) .readWindow .done (List.replicate 42 0#8) = true := by
  decide +kernel

/-! ### Revocation -/

/-- R140, R141: both windows become REVOKING under slot 1, and I0 loses its default with a record. -/
theorem test_revoke_marks_subtree :
    (after .revoke (commanded .revoke [1#8, 0#8])).windows[(2 : SlotIx)] = ⟨5#8, .revoking grandchildWindow 1⟩
      ∧ (after .revoke (commanded .revoke [1#8, 0#8])).log.records.map (fun r => (r.kind, r.desc.handle))
        = [(.defaultCleared, some h1)] := by decide +kernel

/-- Slots 1 and 2 under revocation by the command in response slot 4, which absorbed the one in slot 5. -/
def revokingState (counted : Nat) (stall : StallTimer) : State :=
  { running with
    windows := (running.windows.set 1 ⟨0#8, .revoking childWindow 1⟩).set 2
      ⟨255#8, .revoking { grandchildWindow with inFlight := counted } 1⟩
    contexts := State.reset.contexts
    revocations := [⟨h1, 4, [5], stall, false⟩]
    bank :=
      { running.bank with
        slots := (running.bank.slots.set 4 (.reserved 4#8 .revoke)).set 5 (.reserved 5#8 .revoke) } }

/-- R146, R25: generations advance and wrap, the root loses the child, absorbed answers come first. -/
theorem test_free_subtree :
    ((after (.subtreeFree 0) (revokingState 0 .stopped)).windows[(2 : SlotIx)] = ⟨0#8, .free⟩)
      ∧ (after (.subtreeFree 0) (revokingState 0 .stopped)).bank.order = [5, 4]
      ∧ (after (.subtreeFree 0) (revokingState 0 .stopped)).bank.slots[(4 : RespIx)]
        = .filled ⟨4#8, .revoke, .done, [2#8]⟩ := by decide +kernel
/-- R145: a count above 0 holds the subtree back. -/
theorem test_free_waits_for_drain : after (.subtreeFree 0) (revokingState 1 .stopped) = revokingState 1 .stopped := by
  decide +kernel
/-- R149: the notice carries the drain sum. -/
theorem test_stall_notice :
    (after .stallTimerExpiry (revokingState 3 (.running 8192 true))).log.records.map (·.desc.inFlightTotal)
      = [some 3] := by decide +kernel

/-! ### Contexts, settings, log -/

/-- R63: with nothing undelivered the binding commits at once; marker 0 clears it. -/
theorem test_bind_clear :
    (after .bindDefault (commanded .bindDefault [0#8, 0#8, 1#8, 0#8])).contexts[(0 : Initiator)].current = none := by
  decide +kernel
/-- R62: an initiator that does not hold the window. -/
theorem test_bind_not_holder :
    answeredWith (after .bindDefault (commanded .bindDefault [3#8, 1#8, 2#8, 5#8])) .bindDefault .notHolder [] = true := by
  decide +kernel
/-- R58, R189: the initiator is checked before the state. -/
theorem test_set_initiator_order :
    answeredWith (after .setInitiator (commanded .setInitiator [8#8, 2#8, 0#8])) .setInitiator .badInitiator [] = true := by
  decide +kernel
/-- R75, section 11.5: I0's context in its 13 bytes. -/
theorem test_read_initiator :
    answeredWith (after .readInitiator (commanded .readInitiator [0#8])) .readInitiator .done
      [1#8, 0#8, 1#8, 1#8, 0#8, 0#8, 0#8, 0#8, 0#8, 0#8, 0#8, 0#8, 0#8] = true := by decide +kernel
/-- Section 9.5: a prescale of 0 is refused and the response shows what is held. -/
theorem test_set_control_refused :
    answeredWith (after .setControl (commanded .setControl [0#8, 0#8, 0#8, 10#8, 0#8, 0#8, 0#8, 0#8, 1#8, 1#8]))
      .setControl .badArgument [0#8, 100#8, 3#8, 0xE8#8, 0x10#8, 0#8, 0x20#8, 0#8, 1#8, 1#8] = true := by decide +kernel
/-- R160: an empty log answers EMPTY. -/
theorem test_read_event_empty :
    answeredWith (after .readEvent (commanded .readEvent [])) .readEvent .empty [] = true := by decide +kernel
/-- R181: nothing else outstanding, READ_STATUS reports filled 0 and reserved 1. -/
theorem test_read_status :
    answeredWith (after .readStatus (commanded .readStatus [])) .readStatus .done
      ([0#8, 0#8] ++ List.replicate 8 0#8 ++ [3#8, 0#8, 61#8, 0#8, 0#8, 0#8, 0#8, 0#8, 0#8, 0#8, 0#8, 1#8]) = true := by
  decide +kernel
/-- Section 8.7, tick 7040: a stray of another tag coalesces, and the first one's tag stays. -/
theorem test_strays_coalesce :
    ((⟨[], 115#16⟩ : EventLog).hand 7020#32 (strayEvent 17)).hand 7040#32 (strayEvent 9)
      = ⟨[⟨115#16, .strayResponse, { tag := some 17 }, 7020#32, 7040#32, 2, 0, false⟩], 116#16⟩ := by decide +kernel

/-! ### Witnesses: the machine, its laws, reset -/

/-- The same state with one command waiting. -/
def waiting (s : State) (c : Instr) : State := { s with pending := [c] }

theorem witness_StepRunsFrontCommand : (waiting running .take).pending = .take :: [] := rfl

/-- Nothing staged, nothing issued, no list entry: nothing can be marked. -/
theorem settled_quiet {s : State} (hc : ∀ n : Initiator, s.contexts[n].rebind = .none)
    (ht : ∀ t : Tag, s.tracker[t] = .free) (hr : s.revocations = []) (hp : s.port = .ready) : Settled s :=
  { drains := fun n _ h => nomatch (hc n).symm.trans h
    responses := fun t _ _ _ h => nomatch (ht t).symm.trans h
    stalls := fun _ he => absurd (hr ▸ he) List.not_mem_nil
    hold := fun _ h => nomatch hp.symm.trans h }

theorem settled_running (divider : Nat) : Settled { running with divider := divider } :=
  have hc : ∀ n : Initiator, running.contexts[n].rebind = .none := by decide +kernel
  have ht : ∀ t : Tag, running.tracker[t] = .free := by decide +kernel
  settled_quiet hc ht rfl rfl

/-- A drain timer that expired at the last tick is still marked: the state is not settled. -/
theorem unsettled_staged : ¬Settled (stagedState true) :=
  fun h => absurd (h.drains 0 ⟨some h2, 3, 9, true⟩ rfl) (by decide)

/-- The last period of an interval of 100, the one before it, a period that begins with an expiry marked, and a
period in reset. -/
theorem witness_EmptyQueuePassesRefclkPeriod :
    ((stagedState true).pending = [] ∧ (stagedState true).resetn = true ∧ ¬Settled (stagedState true)) ∧
      (running.pending = [] ∧ running.resetn = true ∧ Settled { running with divider := 99 } ∧ 100 ≤ 99 + 1) ∧
      (Settled { running with divider := 98 } ∧ 98 + 1 < running.interval) ∧
      State.reset.pending = [] ∧ State.reset.resetn = false :=
  ⟨⟨rfl, rfl, unsettled_staged⟩, ⟨rfl, rfl, settled_running 99, by decide⟩, ⟨settled_running 98, by decide +kernel⟩,
    rfl, rfl⟩

/-- Log entry 4: a period that begins with the drain expiry marked fences the lane before its time passes. -/
theorem test_period_settles_first :
    ((stagedState true).refclkPeriod.contexts[(0 : Initiator)].rebind = .fencing ⟨some h2, 3, 9, false⟩) ∧
      (stagedState true).refclkPeriod.divider = (stagedState true).divider + 1 := by decide +kernel

/-- A FETCH in progress with its slot selected, and a frame in the queue. -/
def fetchState : State :=
  { filledState with
    session := some ⟨.fetch (some 2) 0, true, [], 0x81#8, true⟩
    queue := [⟨1#8, .readEvent, []⟩] }

theorem witness_StepKeepsLinkLaw :
    LinkLaw (waiting fetchState (.fetchEnd (fetchEdges 5))) ∧
      ∃ t, step (waiting fetchState (.fetchEnd (fetchEdges 5))) = .next t :=
  ⟨⟨by decide +kernel, by decide +kernel, by decide +kernel, by decide +kernel,
    fun a ha => by
      cases ha
      exact ⟨by decide, nofun, nofun, nofun, nofun⟩,
    fun a k n ha hk => by cases ha; cases hk; decide +kernel⟩, _, rfl⟩

theorem owner_staged : OwnerLaw (waiting (stagedState false) (.delivery 1#8)) := by
  refine ⟨by decide +kernel, by decide +kernel, ?_, fun e he => absurd he List.not_mem_nil,
    fun k hk => absurd hk List.not_mem_nil, fun _ => rfl⟩
  intro n p h
  have hn : ∀ m : Initiator, m ≠ 0 → (stagedState false).contexts[m].rebind.pending? = none := by decide +kernel
  by_cases h0 : n = 0
  · subst h0
    have hp : (stagedState false).contexts[(0 : Initiator)].rebind.pending? = some ⟨some h2, 3, 9, false⟩ := by
      decide +kernel
    rw [show (waiting (stagedState false) (.delivery 1#8)).contexts[(0 : Initiator)].rebind.pending?
      = some ⟨some h2, 3, 9, false⟩ from hp] at h
    cases h
    exact ⟨9#8, by decide +kernel⟩
  · exact absurd ((hn n h0).symm.trans h) (by simp)

theorem witness_StepKeepsOwnerLaw :
    OwnerLaw (waiting (stagedState false) (.delivery 1#8)) ∧
      ∃ t, step (waiting (stagedState false) (.delivery 1#8)) = .next t :=
  ⟨owner_staged, _, rfl⟩

theorem witness_StepKeepsTrackerLaw :
    TrackerLaw (waiting (stagedState false) (.delivery 1#8)) ∧
      ∃ t, step (waiting (stagedState false) (.delivery 1#8)) = .next t :=
  ⟨⟨by decide +kernel, by decide +kernel, by decide +kernel, by decide +kernel, by decide +kernel, by decide +kernel,
    by decide +kernel, fun h => absurd rfl h, by decide +kernel, by decide +kernel⟩, _, rfl⟩

/-- Entry 0 issued under slot 1 with its response just arriving. -/
def issuedState : State := tracked (.issued txn 4095 false) 1

theorem count_issued : CountLaw issuedState := by
  intro i; revert i; decide +kernel

theorem witness_StepKeepsCountLaw :
    CountLaw (waiting issuedState (.downstreamResponse 0 .ok [])) ∧
      ∃ t, step (waiting issuedState (.downstreamResponse 0 .ok [])) = .next t :=
  ⟨fun i => count_issued i, _, rfl⟩

/-- A default that a law looks at: LIVE, of its generation, held. -/
theorem default_law_of (s : State)
    (h : ∀ n : Initiator, (∀ g ∈ s.contexts[n].current, s.windows[g.index].gen = g.gen ∧
        ∃ w, s.windows[g.index].occ = .live w ∧ w.holders.getLsbD n.val = true) ∧
      ∀ p ∈ s.contexts[n].rebind.pending?, ∀ g ∈ p.target, s.windows[g.index].gen = g.gen ∧
        ∃ w, s.windows[g.index].occ = .live w ∧ w.holders.getLsbD n.val = true) : DefaultLaw s := by
  rintro n g (hc | ⟨p, hp, hg⟩)
  · exact (h n).1 g hc
  · exact (h n).2 p hp g hg

/-- Only I0 has a default, and nothing is pending. -/
theorem default_asking (r : Request) : DefaultLaw (asking r) := by
  refine default_law_of _ fun n => ?_
  by_cases hn : n = 0
  · subst hn
    refine ⟨fun g hg => ?_, fun p hp => ?_⟩
    · have : g = h1 := (Option.mem_some_iff.mp hg).symm
      subst this
      exact ⟨(by decide +kernel : running.windows[h1.index].gen = h1.gen), childWindow, rfl, by decide⟩
    · exact nomatch hp
  · have hc : ∀ m : Initiator, m ≠ 0 → running.contexts[m].current = none ∧
        running.contexts[m].rebind.pending? = none := by decide +kernel
    refine ⟨fun g hg => ?_, fun p hp => ?_⟩
    · exact absurd ((hc n hn).1.symm.trans hg) (by simp)
    · exact absurd ((hc n hn).2.symm.trans hp) (by simp)

theorem witness_StepKeepsDefaultLaw :
    DefaultLaw (waiting (asking (read 0x1000#40 0)) .take) ∧
      ∃ t, step (waiting (asking (read 0x1000#40 0)) .take) = .next t :=
  ⟨default_asking (read 0x1000#40 0), _, rfl⟩

/-- Slots 1 and 2 under revocation, whatever count slot 2 holds. -/
theorem window_revoking (k : Nat) : WindowLaw (revokingState k .stopped) := by
  have hf : ∀ i : SlotIx, i ≠ 0 → i ≠ 1 → i ≠ 2 → (revokingState k .stopped).windows[i].occ = .free := by
    have h : ∀ i : SlotIx, i ≠ 0 → i ≠ 1 →
        (running.windows.set 1 ⟨0#8, .revoking childWindow 1⟩)[i] = (resetWindows.set 2 ⟨5#8, .live grandchildWindow⟩)[i] ∧
        (i ≠ 2 → resetWindows[i].occ = .free) := by decide +kernel
    intro i a b c
    have hv : i.val ≠ 2 := fun h => c (Fin.ext h)
    have e := h i a b
    simp only [Fin.getElem_fin, Vector.getElem_set_ne _ _ hv.symm] at e
    simp only [revokingState, Fin.getElem_fin, Vector.getElem_set_ne _ _ hv.symm, e.1, e.2 c]
  have h0 : (revokingState k .stopped).windows[(0 : SlotIx)].occ = .live { rootWindow with children := slotBit 1 } := rfl
  have h1' : (revokingState k .stopped).windows[(1 : SlotIx)].occ = .revoking childWindow 1 := rfl
  have h2' : (revokingState k .stopped).windows[(2 : SlotIx)].occ
      = .revoking { grandchildWindow with inFlight := k } 1 := rfl
  have hs : ∀ i : SlotIx, i = 0 ∨ i = 1 ∨ i = 2 ∨ (revokingState k .stopped).windows[i].occ = .free := by
    intro i
    by_cases a : i = 0
    · exact .inl a
    · by_cases b : i = 1
      · exact .inr (.inl b)
      · by_cases c : i = 2
        · exact .inr (.inr (.inl c))
        · exact .inr (.inr (.inr (hf i a b c)))
  have kids0 : ∀ i : SlotIx, (slotBit 1).getLsbD i.val = true → i = 1 := by decide
  have kids1 : ∀ i : SlotIx, (slotBit 2).getLsbD i.val = true → i = 2 := by decide
  have kids2 : ∀ i : SlotIx, (0#64).getLsbD i.val = true → False := by decide
  refine ⟨⟨rfl, slotBit 1, 0, rfl⟩, ?_, ?_, ?_, ?_, ?_, ?_, ?_, (by decide : ([1] : List SlotIx).Nodup), (by decide : 1 ≤ 4)⟩
  · intro i w hi h
    rcases hs i with rfl | rfl | rfl | hfree
    · exact absurd rfl hi
    · rw [h1'] at h
      cases h
      exact ⟨0, { rootWindow with children := slotBit 1 }, rfl, by rw [h0]; rfl, by decide, rfl, by decide, ⟨by decide, by decide, by decide, by decide⟩, rfl⟩
    · rw [h2'] at h
      cases h
      exact ⟨1, childWindow, rfl, by rw [h1']; rfl, by decide, rfl, (by decide : grandchildWindow.depth ≤ Config.maxDepth),
        ⟨(by decide : childWindow.base ≤ grandchildWindow.base), (by decide : grandchildWindow.limit ≤ childWindow.limit),
          rfl, (by decide : subsetBits grandchildWindow.holders childWindow.holders = true)⟩, rfl, rfl⟩
    · rw [hfree] at h; cases h
  · intro p i v h hc
    rcases hs p with rfl | rfl | rfl | hfree
    · rw [h0] at h
      cases h
      obtain rfl := kids0 i hc
      exact ⟨by decide, _, by rw [h1']; rfl, rfl⟩
    · rw [h1'] at h
      cases h
      obtain rfl := kids1 i hc
      exact ⟨by decide, _, by rw [h2']; rfl, rfl⟩
    · rw [h2'] at h
      cases h
      exact (kids2 i hc).elim
    · rw [hfree] at h; cases h
  · intro i w h
    rcases hs i with rfl | rfl | rfl | hfree
    · rw [h0] at h
      cases h
      unfold Window.boundsLaw; decide
    · rw [h1'] at h
      cases h
      unfold Window.boundsLaw; decide
    · rw [h2'] at h
      cases h
      show grandchildWindow.boundsLaw
      unfold Window.boundsLaw; decide
    · rw [hfree] at h; cases h
  · intro p i c v h hc
    rcases hs p with rfl | rfl | rfl | hfree
    · rw [h0] at h; cases h
    · rw [h1'] at h
      cases h
      obtain rfl := kids1 i hc
      exact ⟨_, h2'⟩
    · rw [h2'] at h
      cases h
      exact (kids2 i hc).elim
    · rw [hfree] at h; cases h
  · intro i c w h hne
    rcases hs i with rfl | rfl | rfl | hfree
    · rw [h0] at h; cases h
    · rw [h1'] at h
      cases h
      exact absurd rfl hne
    · rw [h2'] at h
      cases h
      exact ⟨1, _, rfl, h1'⟩
    · rw [hfree] at h; cases h
  · intro i c w h
    rcases hs i with rfl | rfl | rfl | hfree
    · rw [h0] at h; cases h
    · rw [h1'] at h
      cases h
      exact ⟨_, List.mem_singleton.mpr rfl, rfl⟩
    · rw [h2'] at h
      cases h
      exact ⟨_, List.mem_singleton.mpr rfl, rfl⟩
    · rw [hfree] at h; cases h
  · intro e he
    obtain rfl := List.mem_singleton.mp he
    exact ⟨rfl, _, 0, _, h1', rfl, h0⟩

theorem witness_StepKeepsWindowLaw :
    WindowLaw (waiting (revokingState 1 .stopped) (.subtreeFree 0)) ∧
      ∃ t, step (waiting (revokingState 1 .stopped) (.subtreeFree 0)) = .next t := by
  have h := window_revoking 1
  exact ⟨⟨h.root, h.parent, h.child, h.bounds, h.revoking_down, h.revoking_up, h.covered, h.entries, h.roots_nodup,
    h.list_bound⟩, _, rfl⟩

theorem witness_StepKeepsLogLaw :
    LogLaw (waiting { running with log := (⟨[], 0xFFFF#16⟩ : EventLog).hand 7#32 (strayEvent 1) } .readEvent) ∧
      ∃ t, step (waiting { running with log := (⟨[], 0xFFFF#16⟩ : EventLog).hand 7#32 (strayEvent 1) } .readEvent)
        = .next t := by
  refine ⟨⟨by decide +kernel, ?_, by decide +kernel, by decide +kernel⟩, _, rfl⟩
  intro i r h
  match i, h with
  | 0, h => cases h; decide +kernel
  | i + 1, h => simp [waiting, EventLog.hand, EventLog.coalesces, newRecord, Config.logDepth] at h

theorem witness_StepKeepsTimeLaw :
    TimeLaw { running with port := .holding 16 } ∧ ∃ t, step { running with port := .holding 16 } = .next t := by
  have hd : ∀ n : Initiator, running.contexts[n].rebind.pending? = none := by decide +kernel
  have ht : ∀ t : Tag, running.tracker[t] = .free := by decide +kernel
  refine ⟨⟨by decide +kernel, by decide +kernel, by decide +kernel, fun n p h => ?_, fun t x e d h => ?_,
    fun e he => absurd he List.not_mem_nil, fun c h => ?_⟩, _, rfl⟩
  · exact absurd ((hd n).symm.trans h) (by simp)
  · exact nomatch (ht t).symm.trans h
  · cases h; decide

/-- CS high, and CS low over the reset; and no release to see. -/
theorem witness_ResetnReleaseSamplesStraps :
    (State.reset.resetn = false ∧ State.reset.session = none) ∧
      (after .resetnAssert fetchState).session = some ⟨.ignored, true, [], 0#8, false⟩ ∧
      (after .resetnAssert fetchState).resetn = false ∧ running.resetn = true :=
  ⟨⟨rfl, rfl⟩, rfl, rfl, rfl⟩

theorem witness_ResetnAssertClearsEveryBlock :
    running.session = none ∧ fetchState.session = some ⟨.fetch (some 2) 0, true, [], 0x81#8, true⟩ := ⟨rfl, rfl⟩

theorem witness_NothingHappensWhileResetnLow :
    State.reset.resetn = false ∧ Instr.take ≠ .resetnAssert ∧ (∀ b i c, Instr.take ≠ .resetnRelease b i c) ∧
      (∀ e, Instr.take ≠ .commandFrame e) ∧ Instr.take ≠ .fetchSelect ∧ ∀ e, Instr.take ≠ .fetchEnd e :=
  ⟨rfl, nofun, nofun, nofun, nofun, nofun⟩

/-! ### Witnesses: time -/

/-- Every kind of timer running: I0 STAGED, I1 FENCING, entry 1 ISSUED, two list entries, the hold. -/
def timersState : State :=
  { stagedState false with
    contexts := (stagedState false).contexts.set 1 { resetContext with rebind := .fencing ⟨none, 4, 65535, false⟩ }
    tracker := (stagedState false).tracker.set 1 (.issued txn 4095 false)
    revocations := [⟨h1, 5, [], .running 8191 false, false⟩, ⟨h2, 6, [], .stopped, true⟩]
    port := .holding 15 }

theorem settled_timers : Settled timersState := by
  have hc : ∀ n : Initiator, n ≠ 0 → n ≠ 1 → timersState.contexts[n].rebind = .none := by decide +kernel
  have ht : ∀ t : Tag, t ≠ 0 → t ≠ 1 → timersState.tracker[t] = .free := by decide +kernel
  refine ⟨fun n p h => ?_, fun t x e d h => ?_, fun e he el d h => ?_, fun c h => by cases h; decide⟩
  · by_cases h0 : n = 0
    · subst h0
      cases h
      rfl
    · by_cases h1 : n = 1
      · subst h1
        cases h
      · exact nomatch (hc n h0 h1).symm.trans h
  · by_cases h0 : t = 0
    · subst h0
      cases h
    · by_cases h1 : t = 1
      · subst h1
        cases h
        rfl
      · exact nomatch (ht t h0 h1).symm.trans h
  · rw [show timersState.revocations = [⟨h1, 5, [], .running 8191 false, false⟩, ⟨h2, 6, [], .stopped, true⟩] from rfl,
      List.mem_cons, List.mem_singleton] at he
    rcases he with rfl | rfl <;> cases h
    rfl

theorem witness_TickAdvancesTimeAndTimers :
    ((stagedState true).resetn = true ∧ ¬Settled (stagedState true)) ∧
      (timersState.resetn = true ∧ Settled timersState) ∧
      timersState.contexts[(2 : Initiator)].rebind = .none ∧
      timersState.contexts[(0 : Initiator)].rebind = .staged ⟨some h2, 3, 9, false⟩ ∧
      timersState.contexts[(1 : Initiator)].rebind = .fencing ⟨none, 4, 65535, false⟩ ∧
      timersState.tracker[(1 : Tag)] = .issued txn 4095 false ∧
      (∀ x e d, timersState.tracker[(0 : Tag)] ≠ .issued x e d) ∧
      timersState.revocations[0]? = some ⟨h1, 5, [], .running 8191 false, false⟩ ∧
      timersState.revocations[1]? = some ⟨h2, 6, [], .stopped, true⟩ ∧
      timersState.port = .holding 15 ∧ ∀ c, running.port ≠ .holding c :=
  ⟨⟨rfl, unsettled_staged⟩, ⟨rfl, settled_timers⟩,
    rfl, rfl, rfl, rfl, nofun, rfl, rfl, rfl, nofun⟩

theorem witness_ResponseTimeoutExpiresDueEntries :
    (tracked (.issued txn 4096 true) 1).resetn = true ∧
      (tracked (.issued txn 4096 true) 1).tracker[(0 : Tag)] = .issued txn 4096 true ∧
      ∀ x e, issuedState.tracker[(0 : Tag)] ≠ .issued x e true :=
  ⟨rfl, rfl, fun _ _ h => nomatch h⟩

theorem witness_DrainTimerExpiryFencesDueBindings :
    (stagedState true).resetn = true ∧
      (stagedState true).contexts[(0 : Initiator)].rebind = .staged ⟨some h2, 3, 9, true⟩ ∧
      ∀ p, (stagedState false).contexts[(0 : Initiator)].rebind = .staged p → p.due = false :=
  ⟨rfl, rfl, fun _ h => by cases h; rfl⟩

theorem witness_StallTimerExpiryGivesDueNotices :
    (revokingState 3 (.running 8192 true)).resetn = true ∧
      (revokingState 3 (.running 8192 true)).revocations[0]? = some ⟨h1, 4, [5], .running 8192 true, false⟩ ∧
      (revokingState 3 (.running 8191 false)).revocations[0]? = some ⟨h1, 4, [5], .running 8191 false, false⟩ :=
  ⟨rfl, rfl, rfl⟩

theorem witness_HoldEndReleasesDownstreamReset :
    ({ running with port := .holding 16 } : State).resetn = true ∧
      ({ running with port := .holding 16 } : State).port = .holding 16 ∧
      ({ running with port := .holding 15 } : State).port = .holding 15 ∧ 15 < 16 := ⟨rfl, rfl, rfl, by decide⟩

/-- AWAITING_READY with the command in response slot 6 waiting. -/
def awaitingState : State :=
  { running with
    port := .awaitingReady
    waitingResets := [6]
    bank := { running.bank with slots := running.bank.slots.set 6 (.reserved 3#8 .resetMemoryPort) } }

theorem witness_PortReadyAnswersWaitingResets :
    (awaitingState.resetn = true ∧ awaitingState.port = .awaitingReady ∧ OwnerLaw awaitingState ∧
      (6 : RespIx) ∈ awaitingState.waitingResets ∧
      awaitingState.bank.slots[(6 : RespIx)] = .reserved 3#8 .resetMemoryPort) ∧
      running.resetn = true ∧ running.port ≠ .awaitingReady := by
  have hn : ∀ n : Initiator, awaitingState.contexts[n].rebind.pending? = none := by decide +kernel
  refine ⟨⟨rfl, rfl, ⟨by decide +kernel, by decide +kernel, fun n p h => ?_, fun e he => absurd he List.not_mem_nil,
    fun k hk => ?_, fun h => nomatch h⟩, by decide +kernel, rfl⟩, rfl, nofun⟩
  · exact absurd ((hn n).symm.trans h) (by simp)
  · obtain rfl := List.mem_singleton.mp hk
    exact ⟨3#8, rfl⟩

/-! ### Witnesses: admission -/

/-- A lane of 3 takes a whole WRITE, a lane of 4 does not. -/
theorem witness_UpstreamRequestJoinsLaneTail :
    (write 0x1000#40 15).complete = true ∧ running.resetn = true ∧
      ({ running with lanes := running.lanes.set 0 (List.replicate 3 (read 8#40 0)) } : State).lanes[(0 : Initiator)].length
        < 4 ∧
      4 ≤ ({ running with
        lanes := running.lanes.set 0 (List.replicate 4 (read 8#40 0)) } : State).lanes[(0 : Initiator)].length :=
  ⟨by decide, rfl, by decide +kernel, by decide +kernel⟩

/-- A state whose arbiter grants I0's lane, with entry 0 free. -/
def Grants (s : State) (r : Request) : Prop :=
  s.resetn = true ∧ s.grantedLane = some 0 ∧ s.lanes[(0 : Initiator)] = [r] ∧ s.lowestFreeTag = some 0

/-- The asking state with one context and one window changed. -/
def askingWith (c : Context) (v : WindowSlot) (r : Request) : State :=
  { asking r with contexts := (asking r).contexts.set 0 c, windows := (asking r).windows.set 2 v }

/-- By the default up to its limit, and by a handle. -/
theorem witness_TakeAdmitsUnderJudgedWindow :
    (Grants (asking (read 0x2F80#40 15)) (read 0x2F80#40 15) ∧
      Admitted (asking (read 0x2F80#40 15)) 0 (read 0x2F80#40 15) 1 childWindow) ∧
    Grants (asking (read 0x1FF8#40 0 (some h2))) (read 0x1FF8#40 0 (some h2)) ∧
      Admitted (asking (read 0x1FF8#40 0 (some h2))) 0 (read 0x1FF8#40 0 (some h2)) 2 grandchildWindow :=
  ⟨⟨⟨rfl, by decide +kernel, rfl, by decide +kernel⟩,
      ⟨rfl, ⟨by decide, by decide⟩, .byDefault h1 _ rfl rfl ⟨rfl, rfl⟩ (by decide), rfl, ⟨by decide, by decide⟩⟩⟩,
    ⟨rfl, by decide +kernel, rfl, by decide +kernel⟩,
      ⟨rfl, ⟨by decide, by decide⟩, .byHandle h2 _ rfl (by decide) ⟨rfl, rfl⟩ (by decide), rfl, ⟨by decide, by decide⟩⟩⟩

/-- Every refusal kind, each on a request that the arbiter grants; and the law of the second clause. -/
theorem witness_TakeRefusesByFirstFailedCheck :
    (Grants (askingWith resetContext ⟨5#8, .live grandchildWindow⟩ (read 1#40 0)) (read 1#40 0) ∧
      Refused (askingWith resetContext ⟨5#8, .live grandchildWindow⟩ (read 1#40 0)) 0 (read 1#40 0) .closed none) ∧
    (Grants (asking (read 0x1F88#40 15)) (read 0x1F88#40 15) ∧
      Refused (asking (read 0x1F88#40 15)) 0 (read 0x1F88#40 15) .malformed none) ∧
    (Grants (asking (read 0#40 0 (some ⟨0, 0#8⟩))) (read 0#40 0 (some ⟨0, 0#8⟩)) ∧
      Refused (asking (read 0#40 0 (some ⟨0, 0#8⟩))) 0 (read 0#40 0 (some ⟨0, 0#8⟩)) .rootNamed none) ∧
    (Grants (asking (read 0#40 0 (some ⟨2, 4#8⟩))) (read 0#40 0 (some ⟨2, 4#8⟩)) ∧
      Refused (asking (read 0#40 0 (some ⟨2, 4#8⟩))) 0 (read 0#40 0 (some ⟨2, 4#8⟩)) .staleHandle none) ∧
    (Grants (askingWith context0 ⟨5#8, .revoking grandchildWindow 1⟩ (read 0#40 0 (some h2))) (read 0#40 0 (some h2)) ∧
      Refused (askingWith context0 ⟨5#8, .revoking grandchildWindow 1⟩ (read 0#40 0 (some h2))) 0
        (read 0#40 0 (some h2)) .revoking (some 2)) ∧
    (Grants (askingWith context0 ⟨5#8, .live { grandchildWindow with holders := 0xFE#8 }⟩ (read 0#40 0 (some h2)))
        (read 0#40 0 (some h2)) ∧
      Refused (askingWith context0 ⟨5#8, .live { grandchildWindow with holders := 0xFE#8 }⟩ (read 0#40 0 (some h2))) 0
        (read 0#40 0 (some h2)) .notHolder (some 2)) ∧
    (Grants (askingWith { context0 with current := none } ⟨5#8, .live grandchildWindow⟩ (read 0#40 0)) (read 0#40 0) ∧
      Refused (askingWith { context0 with current := none } ⟨5#8, .live grandchildWindow⟩ (read 0#40 0)) 0 (read 0#40 0)
        .noDefault none) ∧
    (Grants (askingWith context0 ⟨5#8, .live { grandchildWindow with perms := ⟨false, true, true⟩ }⟩
        (read 0x1000#40 0 (some h2))) (read 0x1000#40 0 (some h2)) ∧
      Refused (askingWith context0 ⟨5#8, .live { grandchildWindow with perms := ⟨false, true, true⟩ }⟩
        (read 0x1000#40 0 (some h2))) 0 (read 0x1000#40 0 (some h2)) .noRead (some 2)) ∧
    (Grants (asking (write 0x1000#40 0 (some h2))) (write 0x1000#40 0 (some h2)) ∧
      Refused (asking (write 0x1000#40 0 (some h2))) 0 (write 0x1000#40 0 (some h2)) .noWrite (some 2)) ∧
    (Grants (asking (read 0x3000#40 0)) (read 0x3000#40 0) ∧
      Refused (asking (read 0x3000#40 0)) 0 (read 0x3000#40 0) .outOfBounds (some 1)) ∧
    DefaultLaw (asking (read 0x1000#40 0)) := by
  refine ⟨⟨⟨rfl, by decide +kernel, rfl, by decide +kernel⟩, .closed rfl⟩,
    ⟨⟨rfl, by decide +kernel, rfl, by decide +kernel⟩, .malformed rfl (by unfold placed; decide)⟩,
    ⟨⟨rfl, by decide +kernel, rfl, by decide +kernel⟩, .rootNamed _ rfl ⟨by decide, by decide⟩ rfl rfl⟩,
    ⟨⟨rfl, by decide +kernel, rfl, by decide +kernel⟩,
      .staleHandle _ rfl ⟨by decide, by decide⟩ rfl (by decide) (.inr (by decide +kernel))⟩,
    ⟨⟨rfl, by decide +kernel, rfl, by decide +kernel⟩,
      .revoking h2 rfl ⟨by decide, by decide⟩ rfl (by decide) ⟨rfl, _, _, rfl⟩⟩,
    ⟨⟨rfl, by decide +kernel, rfl, by decide +kernel⟩,
      .notHolder h2 _ rfl ⟨by decide, by decide⟩ rfl (by decide) ⟨rfl, rfl⟩ (by decide)⟩,
    ⟨⟨rfl, by decide +kernel, rfl, by decide +kernel⟩, .noDefault rfl ⟨by decide, by decide⟩ rfl rfl⟩,
    ⟨⟨rfl, by decide +kernel, rfl, by decide +kernel⟩,
      .noRead 2 _ rfl ⟨by decide, by decide⟩ (.byHandle h2 _ rfl (by decide) ⟨rfl, rfl⟩ (by decide)) rfl rfl⟩,
    ⟨⟨rfl, by decide +kernel, rfl, by decide +kernel⟩,
      .noWrite 2 _ rfl ⟨by decide, by decide⟩ (.byHandle h2 _ rfl (by decide) ⟨rfl, rfl⟩ (by decide)) rfl rfl⟩,
    ⟨⟨rfl, by decide +kernel, rfl, by decide +kernel⟩,
      .outOfBounds 1 _ rfl ⟨by decide, by decide⟩ (.byDefault h1 _ rfl rfl ⟨rfl, rfl⟩ (by decide)) rfl
        fun h => absurd h.2 (by decide)⟩,
    default_asking _⟩

theorem witness_ArbitersAreRoundRobin :
    (asking (read 0#40 0)).resetn = true ∧ (asking (read 0#40 0)).grantedLane = some 0 ∧
      (asking (read 0#40 0)).eligible 0 = true ∧ (∃ t, exec .take (asking (read 0#40 0)) = .next t) ∧
      (running.resetn = true ∧ ∀ n, running.eligible n = false) ∧
      (stagedState false).resetn = true ∧ (stagedState false).grantedResponse 1#8 = some 0 ∧
      (1#8).getLsbD (0 : Initiator).val = true ∧ (stagedState false).deliverableHead 0 = true ∧
      ∃ t, exec (.delivery 1#8) (stagedState false) = .next t :=
  ⟨rfl, by decide +kernel, by decide +kernel, ⟨_, rfl⟩, ⟨rfl, by decide +kernel⟩, rfl, by decide +kernel, by decide,
    by decide +kernel, _, rfl⟩

/-- Entry 0 QUEUED under slot 1 and at the head of the forward order. -/
def queuedState : State := { tracked (.queued txn []) 1 with forward := [0] }

theorem witness_ForwardedOnlyIfAdmittedAtTake :
    (StepsTo .take (asking (read 0x2F80#40 15)) (after .take (asking (read 0x2F80#40 15))) ∧
      DefaultLaw (asking (read 0x2F80#40 15)) ∧ (asking (read 0x2F80#40 15)).tracker[(0 : Tag)].isQueued = false ∧
      (after .take (asking (read 0x2F80#40 15))).tracker[(0 : Tag)] = .queued ⟨0, 1, .read, 0x2F80#40, 15⟩ []) ∧
    StepsTo .downstreamAccept queuedState (after .downstreamAccept queuedState) ∧
      queuedState.tracker[(0 : Tag)] = .queued txn [] ∧
      (after .downstreamAccept queuedState).dnOut ≠ queuedState.dnOut :=
  ⟨⟨⟨rfl, rfl, by decide +kernel⟩, default_asking _, rfl, by decide +kernel⟩, ⟨rfl, rfl, by decide +kernel⟩, rfl,
    by decide +kernel⟩

/-! ### Witnesses: the memory port -/

theorem witness_DownstreamAcceptIssuesForwardHead :
    queuedState.resetn = true ∧ queuedState.port = .ready ∧ queuedState.forward = [0] ∧
      queuedState.tracker[(0 : Tag)] = .queued txn [] ∧
      queuedState.windows[txn.window].occ.window? = some { childWindow with inFlight := 1 } ∧
      (0 : Int) ≤ (txn.addr.toNat : Int) + ({ childWindow with inFlight := 1 } : Window).offset ∧
      (txn.addr.toNat : Int) + ({ childWindow with inFlight := 1 } : Window).offset < 1099511627776 :=
  ⟨rfl, rfl, rfl, rfl, by decide +kernel, by decide, by decide⟩

/-- A WRITE with OK, a READ with its 2 beats, a READ with 1, and an ERROR. -/
theorem witness_TimelyResponseCompletesEntry :
    (issuedState.resetn = true ∧ issuedState.port = .ready ∧ issuedState.tracker[(0 : Tag)] = .issued txn 4095 false) ∧
      (tracked (.issued { txn with kind := .write } 0 false) 1).tracker[(0 : Tag)]
        = .issued { txn with kind := .write } 0 false ∧
      txn.kind = .read ∧ [1#64, 2#64].length = beatCount txn.len ∧
      ([1#64] : List Beat).length ≠ beatCount txn.len ∧ DnStatus.error ≠ .ok ∧ (1 : Fin 16).val < beatCount txn.len ∧
      beatCount txn.len ≤ (2 : Fin 16).val ∧ (1 : Tag) ≠ 0 :=
  ⟨⟨rfl, rfl, rfl⟩, rfl, rfl, rfl, by decide, by decide, by decide, by decide, by decide⟩

theorem witness_LateStrayAndDiscardedResponses :
    ((tracked (.expired txn true) 1).resetn = true ∧ (tracked (.expired txn true) 1).port = .ready ∧
      (tracked (.expired txn true) 1).tracker[(0 : Tag)] = .expired txn true) ∧
    (tracked (.orphaned txn) 1).tracker[(0 : Tag)] = .orphaned txn ∧
    running.tracker[(31 : Tag)].holds = none ∧ (tracked (.expired txn false) 0).tracker[(0 : Tag)].holds = none ∧
    queuedState.tracker[(0 : Tag)].isQueued = true ∧ awaitingState.resetn = true ∧ awaitingState.port ≠ .ready :=
  ⟨⟨rfl, rfl, rfl⟩, rfl, rfl, rfl, rfl, rfl, nofun⟩

/-- A reset with five entries owed, one of each state, and one more while RESETTING. -/
def owedState : State :=
  { commanded .resetMemoryPort [] with
    tracker :=
      ((((running.tracker.set 0 (.queued txn [])).set 1 (.issued txn 3 false)).set 2 (.expired txn true)).set 3
        (.orphaned txn)).set 4 (.done txn .okay)
    windows := running.windows.set 1 ⟨0#8, .live { childWindow with inFlight := 4 }⟩ }

theorem witness_ResetMemoryPortResolvesEveryOwedEntry :
    Takes owedState ⟨7#8, .resetMemoryPort, []⟩ [] 0 ∧ owedState.port = .ready ∧
      owedState.tracker[(0 : Tag)] = .queued txn [] ∧ owedState.tracker[(1 : Tag)] = .issued txn 3 false ∧
      owedState.tracker[(2 : Tag)] = .expired txn true ∧ owedState.tracker[(3 : Tag)] = .orphaned txn ∧
      owedState.tracker[(4 : Tag)].holds = none ∧ CountLaw owedState ∧
      Takes { owedState with port := .holding 16 } ⟨7#8, .resetMemoryPort, []⟩ [] 0 :=
  ⟨⟨rfl, rfl, rfl, fun j hj => absurd hj (Fin.not_lt_zero j)⟩, rfl, rfl, rfl, rfl, rfl, rfl,
    fun i => by revert i; decide +kernel, ⟨rfl, rfl, rfl, fun j hj => absurd hj (Fin.not_lt_zero j)⟩⟩

/-! ### Witnesses: delivery and commit -/

/-- One entry deliverable and a second listed behind it. -/
def twoListed : State :=
  { stagedState false with
    tracker := (stagedState false).tracker.set 1 (.issued txn 0 false)
    deliveryLists := running.deliveryLists.set 0 [0, 1]
    contexts := running.contexts.set 0
      { context0 with undelivered := 2, rebind := .staged ⟨some h2, 3, 9, false⟩ } }

theorem witness_DeliveryHandsUpHeadResponse :
    ((tracked (.done txn .okay) 0).resetn = true ∧ (tracked (.done txn .okay) 0).grantedResponse 1#8 = some 0 ∧
      (tracked (.done txn .okay) 0).deliveryLists[(0 : Initiator)] = [0] ∧
      (tracked (.done txn .okay) 0).contexts[(0 : Initiator)].rebind = .none) ∧
    (twoListed.grantedResponse 1#8 = some 0 ∧ twoListed.deliveryLists[(0 : Initiator)] = [0, 1] ∧
      1 < twoListed.contexts[(0 : Initiator)].undelivered) ∧
    (∀ n : Initiator, (0xFE#8).getLsbD n.val = true → twoListed.deliverableHead n = false) ∧
    txn.kind = .read ∧ ({ txn with kind := .write } : Txn).kind = .write :=
  ⟨⟨rfl, by decide +kernel, rfl, rfl⟩, ⟨by decide +kernel, rfl, by decide +kernel⟩, by decide +kernel, rfl, rfl⟩

/-- The last undelivered entry, under STAGED and under FENCING. -/
theorem witness_StagedCommitMakesPendingCurrent :
    ((stagedState false).resetn = true ∧ (stagedState false).grantedResponse 1#8 = some 0 ∧
      (stagedState false).deliveryLists[(0 : Initiator)] = [0] ∧
      (stagedState false).contexts[(0 : Initiator)].undelivered = 1 ∧
      (stagedState false).contexts[(0 : Initiator)].rebind = .staged ⟨some h2, 3, 9, false⟩ ∧
      (stagedState false).bank.slots[(3 : RespIx)] = .reserved 9#8 .bindDefault) ∧
    (after .drainTimerExpiry (stagedState true)).grantedResponse 1#8 = some 0 ∧
      (after .drainTimerExpiry (stagedState true)).contexts[(0 : Initiator)].undelivered = 1 ∧
      (after .drainTimerExpiry (stagedState true)).contexts[(0 : Initiator)].rebind
        = .fencing ⟨some h2, 3, 9, false⟩ ∧
      (after .drainTimerExpiry (stagedState true)).bank.slots[(3 : RespIx)] = .reserved 9#8 .bindDefault :=
  ⟨⟨rfl, by decide +kernel, rfl, rfl, rfl, rfl⟩, by decide +kernel, by decide +kernel, by decide +kernel,
    by decide +kernel⟩

/-- A take and a delivery that change a list. -/
theorem witness_DeliveryListsAreFifo :
    StepsTo .take (asking (read 0#40 0)) (after .take (asking (read 0#40 0))) ∧
      (after .take (asking (read 0#40 0))).deliveryLists[(0 : Initiator)] ≠
        (asking (read 0#40 0)).deliveryLists[(0 : Initiator)] ∧
      StepsTo (.delivery 1#8) twoListed (after (.delivery 1#8) twoListed) ∧
      (after (.delivery 1#8) twoListed).deliveryLists[(0 : Initiator)] = [1] :=
  ⟨⟨rfl, rfl, by decide +kernel⟩, by decide +kernel, ⟨rfl, rfl, by decide +kernel⟩, by decide +kernel⟩

/-- A late response for an EXPIRED entry, and a delivery. -/
theorem witness_OutcomesNeverChange :
    (StepsTo (.downstreamResponse 0 .ok []) (tracked (.expired txn true) 1)
        (after (.downstreamResponse 0 .ok []) (tracked (.expired txn true) 1)) ∧
      (tracked (.expired txn true) 1).tracker[(0 : Tag)].deliverable = true) ∧
    StepsTo (.delivery 1#8) twoListed (after (.delivery 1#8) twoListed) ∧
      twoListed.tracker[(0 : Tag)].deliverable = true :=
  ⟨⟨⟨rfl, rfl, by decide +kernel⟩, rfl⟩, ⟨rfl, rfl, by decide +kernel⟩, rfl⟩

/-- Stores that differ in a beat nobody owns, while entry 0 owns its first two. -/
theorem witness_UnownedReadDataIsInvisible :
    (stagedState false).storesAgree ((stagedState false).readStore.set 0 ((Vector.replicate 16 0#64).set 2 5#64)) ∧
      (stagedState false).readStore.set 0 ((Vector.replicate 16 0#64).set 2 5#64) ≠ (stagedState false).readStore ∧
      (stagedState false).tracker[(0 : Tag)].ownedBeats = 2 :=
  ⟨by unfold State.storesAgree; decide +kernel, by decide +kernel, rfl⟩

/-! ### Witnesses: the management link -/

/-- A session of this kind between two SCLK periods, the byte 0x81 being shifted. -/
def inSession (s : State) (kind : SessionKind) (bits : List Bool) : State :=
  { s with session := some ⟨kind, false, bits, 0x81#8, (0x81#8 : Byte).getMsbD bits.length⟩ }

/-- The bytes READ_EVENT's frame of sequence 9 has, with one of them changed. -/
def frameBut (i : Nat) (b : Byte) : List Byte := (Frame.bytes ⟨9#8, .readEvent, []⟩).set i b

/-- A frame whose CRC is right, whatever its code and length. -/
def framed (code : Byte) (payload : List Byte) : List Byte :=
  let body := [0x5A#8, 9#8, code, BitVec.ofNat 8 payload.length] ++ payload
  body ++ [crc8 body]

/-- A whole session with bits left over and one with no byte; a session whose frame is in; each test of the
table failed first, the queue at 4; a session ignored; a FETCH. -/
theorem witness_CommandFrameJoinsQueueOrIsDropped :
    (running.resetn = true ∧ running.session = none ∧
      (Frame.bytes ⟨9#8, .readEvent, []⟩ ++ [3#8]).head? ≠ some fetchType ∧ ([] : List Byte).head? ≠ some fetchType ∧
      [true, false, true, true, true, true, true].length < 8) ∧
    (inSession running (.command [0x5A#8]) []).session = some ⟨.command [0x5A#8], false, [], 0x81#8, true⟩ ∧
    (FrameFails 0 (frameBut 0 0x5B#8) .unknownCommand ∧ FrameFails 0 [0x5A#8, 9#8, 0x0A#8] .badLength ∧
      FrameFails 0 [0x5A#8, 9#8, 0x0A#8, 0#8] .badLength ∧ FrameFails 0 (frameBut 4 0#8) .badCrc ∧
      FrameFails 0 (framed 0x0C#8 []) .unknownCommand ∧ FrameFails 0 (framed 0x0A#8 [0#8]) .badLength ∧
      FrameFails 4 (framed 0x0A#8 [] ++ [1#8]) .queueFull) ∧
    (inSession running .ignored []).session = some ⟨.ignored, false, [], 0x81#8, true⟩ ∧
    fetchState.session = some ⟨.fetch (some 2) 0, true, [], 0x81#8, true⟩ :=
  ⟨⟨rfl, rfl, by decide +kernel, by decide, by decide⟩, rfl,
    ⟨.notCommand (by decide +kernel), .incomplete rfl (by decide), .incomplete rfl (by decide),
      .badCrc 0 rfl rfl (by decide) (by decide +kernel),
      .noCommand 0 rfl rfl (by decide) rfl (fun c => by cases c <;> decide),
      .badLength 1 .readEvent rfl rfl (by decide) rfl rfl (by decide),
      .queueFull 0 .readEvent rfl rfl (by decide) rfl rfl rfl (by decide)⟩, rfl, rfl⟩

/-- A slot filled and none; the type byte under way at a low and a high SCLK; bits of another byte; a COMMAND
session and an ignored one. -/
theorem witness_FetchSelectPicksHeadOfFillOrder :
    (filledState.resetn = true ∧ filledState.session = none ∧ running.resetn = true ∧ running.session = none) ∧
    ((⟨.untyped, false, [true, false, true], 0x81#8, false⟩ : Session).Sound true ∧
      (⟨.untyped, true, [true], 0x81#8, true⟩ : Session).Sound true ∧
      [true, false, true] <+: byteBits fetchType ∧ [true] <+: byteBits fetchType) ∧
    ¬[true, true] <+: byteBits fetchType ∧ SessionKind.command [0x5A#8] ≠ .untyped ∧
      SessionKind.command [0x5A#8] ≠ .ignored ∧
      (inSession running .ignored []).session = some ⟨.ignored, false, [], 0x81#8, true⟩ :=
  ⟨⟨rfl, rfl, rfl, rfl⟩,
    ⟨⟨by decide, fun _ _ => by decide, nofun, nofun, nofun⟩,
      ⟨by decide, nofun, fun _ _ => nofun, nofun, nofun⟩,
      by decide, by decide⟩,
    by decide, nofun, nofun, rfl⟩

/-- A frame of 5 bytes, clocked whole and one byte short, and the EMPTY frame; no session, a COMMAND session, an
ignored one. -/
theorem witness_FetchEndEmptiesSlotClockedWhole :
    (fetchState.resetn = true ∧ fetchState.session = some ⟨.fetch (some 2) 0, true, [], 0x81#8, true⟩ ∧
      fetchState.bank.slots[(2 : RespIx)] = .filled ⟨0x4E#8, .readEvent, .empty, []⟩ ∧ fetchState.bank.order = [2] ∧
      [true].length < 8) ∧
    ((inSession filledState (.fetch (some 2) 5) []).session = some ⟨.fetch (some 2) 5, false, [], 0x81#8, true⟩ ∧
      ([] : List Byte).length + 5 ≤ 5 ∧ 4 < ([] : List Byte).length + 5) ∧
    (inSession running (.fetch none 7) []).session = some ⟨.fetch none 7, false, [], 0x81#8, true⟩ ∧
    running.session = none ∧
    (inSession running (.command [0x5A#8]) []).session = some ⟨.command [0x5A#8], false, [], 0x81#8, true⟩ ∧
    (inSession running .ignored []).session = some ⟨.ignored, false, [], 0x81#8, true⟩ :=
  ⟨⟨rfl, rfl, rfl, rfl, by decide⟩, ⟨rfl, by decide, by decide⟩, rfl, rfl, rfl, rfl⟩

/-- An empty slot reserved and filled, a reserved one filled, a filled one emptied; no slot empty, and a head of
another code. -/
theorem witness_ResponseSlotLifeCycle :
    (StepsTo .readEvent (commanded .readEvent []) (after .readEvent (commanded .readEvent [])) ∧
      (commanded .readEvent []).bank.slots[(0 : RespIx)] = .empty) ∧
    (StepsTo (.stagedCommit 1#8) (stagedState false) (after (.stagedCommit 1#8) (stagedState false)) ∧
      (stagedState false).bank.slots[(3 : RespIx)] = .reserved 9#8 .bindDefault) ∧
    (StepsTo (.fetchEnd (fetchEdges 5)) fetchState (after (.fetchEnd (fetchEdges 5)) fetchState) ∧
      fetchState.bank.slots[(2 : RespIx)] = .filled ⟨0x4E#8, .readEvent, .empty, []⟩ ∧
      (after (.fetchEnd (fetchEdges 5)) fetchState).bank.slots[(2 : RespIx)] = .empty) ∧
    (∀ k : RespIx, (Vector.replicate 8 (RespSlot.reserved 1#8 .revoke))[k] ≠ .empty) ∧
    ∀ f rest, (commanded .readEvent []).queue = f :: rest → f.code ≠ .readStatus :=
  ⟨⟨⟨rfl, rfl, by decide +kernel⟩, rfl⟩, ⟨⟨rfl, rfl, by decide +kernel⟩, rfl⟩,
    ⟨⟨rfl, rfl, by decide +kernel⟩, rfl, by decide +kernel⟩, by decide +kernel,
    fun f rest h => by cases h; exact nofun⟩

theorem witness_StatusByteFieldsAreRecoverable :
    ({ running with queue := List.replicate 4 ⟨0#8, .readEvent, []⟩ } : State).queue.length ≤ 4 ∧
      (running.resetn = true ∧ running.session = none) ∧
      ({ running with session := some ⟨.command [0x5A#8], true, [], 0x81#8, true⟩ } : State).session
        = some ⟨.command [0x5A#8], true, [], 0x81#8, true⟩ ∧
      (inSession running .untyped []).session = some ⟨.untyped, false, [], 0x81#8, (0x81#8 : Byte).getLsbD 7⟩ ∧
      (0x5A#8 : Byte) ≠ fetchType ∧
      (inSession running (.command [0x5A#8]) []).session
        = some ⟨.command [0x5A#8], false, [], 0x81#8, (0x81#8 : Byte).getLsbD 7⟩ :=
  ⟨by decide +kernel, ⟨rfl, rfl⟩, rfl, rfl, by decide, rfl⟩

/-- The greatest and least values each field can express; and bytes on both sides of every boundary: in and out
of the payload, index 63 and 64, initiator 7 and 8, a binding marker of 0 and 255, permissions 7 and 8, relocation
marker 1 and 2. -/
theorem witness_CommandPayloadsDecodeToWhatWasEncoded :
    (0 < [63#8, 9#8].length ∧ (byteAt [63#8, 9#8] 0).toNat = (63 : SlotIx).val ∧ byteAt [63#8, 9#8] 1 = 9#8 ∧
      64 ≤ (byteAt [64#8] 0).toNat ∧ (byteAt [7#8] 0).toNat = (7 : Initiator).val ∧ 8 ≤ (byteAt [8#8] 0).toNat) ∧
    (byteAt [0#8, 0#8, 63#8, 9#8] 1 = 0#8 ∧ byteAt [0#8, 255#8, 64#8, 9#8] 1 ≠ 0#8) ∧
    ((deriveArgs (List.replicate 14 0#8 ++ [7#8, 255#8, 1#8] ++ List.replicate 6 255#8)).isSome = true ∧
      deriveArgs (List.replicate 14 0#8 ++ [8#8, 255#8, 1#8] ++ List.replicate 6 255#8) = none ∧
      deriveArgs (List.replicate 14 0#8 ++ [7#8, 255#8, 2#8] ++ List.replicate 6 255#8) = none ∧
      (shrinkArgs (List.replicate 14 0#8 ++ [7#8, 255#8])).isSome = true ∧
      shrinkArgs (List.replicate 14 0#8 ++ [128#8, 255#8]) = none) ∧
    (281474976710655 < 281474976710656 ∧
      (∀ v, some (-140737488355328 : Int) = some v → -140737488355328 ≤ v ∧ v < 140737488355328) ∧
      ∀ v, some (140737488355327 : Int) = some v → -140737488355328 ≤ v ∧ v < 140737488355328) ∧
    1 ≤ (⟨1024, 65535, 65535, 65535, true, false⟩ : Settings).prescale ∧
      (⟨1024, 65535, 65535, 65535, true, false⟩ : Settings).prescale ≤ 1024 ∧
      (⟨1024, 65535, 65535, 65535, true, false⟩ : Settings).drainDeadline < 65536 ∧
      (⟨1024, 65535, 65535, 65535, true, false⟩ : Settings).responseTimeout < 65536 ∧
      (⟨1024, 65535, 65535, 65535, true, false⟩ : Settings).stallNotice < 65536 := by
  refine ⟨by decide +kernel, by decide +kernel, by decide +kernel, ⟨by decide, fun v h => ?_, fun v h => ?_⟩, by decide,
    by decide, by decide, by decide, by decide⟩ <;> (cases h; decide)

/-- A relocated window of depth 1, a record with every optional field, the root, and a record with few of
them. -/
theorem witness_ReadBackPayloadsCarryTheirFields :
    (∃ p, p = WindowSlot.report ⟨255#8, .revoking { childWindow with reloc := some (-0x1000), offset := -0x1000 } 1⟩ ∧
      childWindow.base < 281474976710656 ∧ childWindow.limit < 281474976710656 ∧
      (-140737488355328 : Int) ≤ -0x1000 ∧ (-0x1000 : Int) < 140737488355328 ∧
      (∀ v, some (-0x1000 : Int) = some v → -140737488355328 ≤ v ∧ v < 140737488355328) ∧ childWindow.depth < 256 ∧
      ({ childWindow with inFlight := 32 } : Window).inFlight < 256 ∧ childWindow.parent = some 0) ∧
    (newRecord 9#16 3#32 (stallEvent tree ⟨h1, 0, [], .stopped, true⟩)).repeats < 256 ∧
      (newRecord 9#16 3#32 (stallEvent tree ⟨h1, 0, [], .stopped, true⟩)).drops < 256 ∧
      (newRecord 9#16 3#32 (stallEvent tree ⟨h1, 0, [], .stopped, true⟩)).desc.inFlightTotal = some 0 ∧
      (newRecord 9#16 3#32 (refusalEvent 0 (read 8#40 0 (some h2)) 3 .notHolder (some 2) false)).desc
        = { initiator := some 0, window := some 2, handle := some h2, access := some .read, addr := some 8#40
            len := some 0, tag := some 3 } ∧
      rootWindow.parent = none ∧ rootWindow.reloc = none ∧
      (newRecord 9#16 3#32 (strayEvent 1)).desc = { tag := some 1 } :=
  ⟨⟨_, rfl, by decide, by decide, by decide, by decide, fun v h => by cases h; decide, by decide, by decide, rfl⟩,
    by decide +kernel,
    by decide +kernel, by decide +kernel, rfl, rfl, rfl, rfl⟩

/-! ### Witnesses: window commands -/

/-- A relocated child of the root that ends at 2^40 after translation. -/
def deriveBytes : List Byte := encodeDerive ⟨0, 0#8⟩ 0x0 0xFFFFFFF000 ⟨true, true, true⟩ 255#8 (some 0x1000)

theorem witness_DeriveAllocatesLowestFreeSlot :
    ∃ a, Takes (commanded .derive deriveBytes) ⟨7#8, .derive, deriveBytes⟩ [] 0 ∧ deriveArgs deriveBytes = some a ∧
      DeriveSound (commanded .derive deriveBytes) a ⟨0, 0#8⟩ { rootWindow with children := slotBit 1 } ∧
      ({ rootWindow with children := slotBit 1 } : Window).depth < 5 ∧ goodReloc 0 a.base a.limit a.reloc ∧
      (3 : SlotIx) ≠ 0 ∧ (commanded .derive deriveBytes).windows[(3 : SlotIx)].occ = .free ∧
      ∀ j : SlotIx, j ≠ 0 → j < 3 → (commanded .derive deriveBytes).windows[j].occ ≠ .free := by
  refine ⟨⟨some ⟨0, 0#8⟩, 0, 0xFFFFFFF000, ⟨true, true, true⟩, 255#8, some 0x1000⟩, takes_commanded _ _, rfl,
    ⟨rfl, ⟨rfl, rfl⟩, rfl, by unfold goodBounds; decide, by decide, ⟨fun h => h, fun h => h, fun h => h⟩, fun _ h => h⟩,
    by decide, fun v h => ?_, by decide, by decide +kernel, by decide +kernel⟩
  obtain rfl := Option.some.inj h
  decide

/-- A command frame waiting in a state with other windows, list entries and contexts. -/
def commandedIn (s : State) (code : CommandCode) (payload : List Byte) : State :=
  { s with queue := [⟨7#8, code, payload⟩] }

/-- Slot 1's arguments for a DERIVE, every check of which passes. -/
def soundArgs : DeriveArgs := ⟨some h1, 0x1000, 0x2000, ⟨true, false, false⟩, 1#8, none⟩

theorem sound_of (s : State) (w : Window) (ho : s.namesLive h1 w) (hd : w.perms.derive = true)
    (hb : w.base ≤ 0x1000 ∧ 0x2000 ≤ w.limit) (hp : w.perms.read = true) (hh : w.holders.getLsbD 0 = true) :
    DeriveSound s soundArgs h1 w :=
  ⟨rfl, ho, hd, by unfold goodBounds; decide, hb, ⟨fun _ => hp, fun h => absurd h (by decide), fun h => absurd h (by decide)⟩, fun n h => by
    have : n = 0 := by revert n; decide
    subst this; exact hh⟩

/-- The table with every slot taken, and slot 1 at depth 5. -/
def fullState (depth : Nat) (free : Bool) : State :=
  { running with
    windows :=
      if free then running.windows.set 1 ⟨0#8, .live { childWindow with depth := depth }⟩
      else (Vector.replicate 64 ⟨0#8, .live childWindow⟩).set 1 ⟨0#8, .live { childWindow with depth := depth }⟩ }

/-- What the statement asks of a refused DERIVE: the frame can be taken, decodes to `a`, and fails with `o`. -/
def RefusesDerive (s : State) (p : List Byte) (a : DeriveArgs) (o : CmdOutcome) : Prop :=
  Takes (commandedIn s .derive p) ⟨7#8, .derive, p⟩ [] 0 ∧ deriveArgs p = some a ∧
    DeriveFails (commandedIn s .derive p) a o

theorem takes_in (s : State) (hr : s.resetn = true) (he : s.bank.slots[(0 : RespIx)] = .empty) (c : CommandCode)
    (p : List Byte) : Takes (commandedIn s c p) ⟨7#8, c, p⟩ [] 0 :=
  ⟨hr, rfl, he, fun j hj => absurd hj (Fin.not_lt_zero j)⟩

/-- A DERIVE frame from slot 1: [0x1000, 0x2000), READ, I0. -/
def soundBytes : List Byte := encodeDerive h1 0x1000 0x2000 ⟨true, false, false⟩ 1#8 none

/-- The first check each DERIVE fails, one for each outcome of section 6.2, and check 0. -/
theorem witness_RefusedCommandsOnlyAnswer_derive :
    (Takes (commanded .derive (List.replicate 23 0xFF#8)) ⟨7#8, .derive, List.replicate 23 0xFF#8⟩ [] 0 ∧
      deriveArgs (List.replicate 23 0xFF#8) = none) ∧
    RefusesDerive running (64#8 :: soundBytes.tail) { soundArgs with parent := none } .staleHandle ∧
    RefusesDerive running (63#8 :: soundBytes.tail) { soundArgs with parent := some ⟨63, 0#8⟩ } .staleHandle ∧
    RefusesDerive (revokingState 0 .stopped) soundBytes soundArgs .windowRevoking ∧
    RefusesDerive running (encodeDerive h2 0x1000 0x2000 ⟨true, false, false⟩ 1#8 none)
      { soundArgs with parent := some h2 } .noDerive ∧
    RefusesDerive running (encodeDerive h1 0x1001 0x2000 ⟨true, false, false⟩ 1#8 none)
      { soundArgs with base := 0x1001 } .badBounds ∧
    RefusesDerive running (encodeDerive h1 0xFC0 0x2000 ⟨true, false, false⟩ 1#8 none)
      { soundArgs with base := 0xFC0 } .outOfParent ∧
    RefusesDerive { running with
      windows := running.windows.set 1 ⟨0#8, .live { childWindow with perms := ⟨false, true, true⟩ }⟩ }
      soundBytes soundArgs .permNotSubset ∧
    RefusesDerive { running with
      windows := running.windows.set 1 ⟨0#8, .live { childWindow with holders := 0xFE#8 }⟩ }
      soundBytes soundArgs .holdersNotSubset ∧
    RefusesDerive (fullState 5 true) soundBytes soundArgs .tooDeep ∧
    RefusesDerive running (encodeDerive h1 0x1000 0x2000 ⟨true, false, false⟩ 1#8 (some 0x1000))
      { soundArgs with reloc := some 0x1000 } .badRelocation ∧
    RefusesDerive (fullState 4 false) soundBytes soundArgs .tableFull := by
  have good : goodBounds 0x1000 0x2000 := by unfold goodBounds; decide
  have pw : permsWithin ⟨true, false, false⟩ ⟨true, true, true⟩ :=
    ⟨fun _ => rfl, fun h => (nomatch h), fun h => nomatch h⟩
  have t (s : State) (hr : s.resetn = true) (he : s.bank.slots[(0 : RespIx)] = .empty) (p : List Byte) :
      Takes (commandedIn s .derive p) ⟨7#8, .derive, p⟩ [] 0 := takes_in s hr he .derive p
  refine ⟨⟨takes_commanded _ _, rfl⟩, ⟨t _ rfl rfl _, rfl, .staleHandle nofun⟩,
    ⟨t _ rfl rfl _, rfl, .staleHandle fun g hg => .inl ?_⟩,
    ⟨t _ rfl rfl _, rfl, .windowRevoking h1 rfl ⟨rfl, _, _, rfl⟩⟩,
    ⟨t _ rfl rfl _, rfl, .noDerive h2 grandchildWindow rfl ⟨rfl, rfl⟩ rfl⟩,
    ⟨t _ rfl rfl _, rfl, .badBounds h1 childWindow rfl ⟨rfl, rfl⟩ rfl fun h => absurd h.1 (by decide)⟩,
    ⟨t _ rfl rfl _, rfl, .outOfParent h1 childWindow rfl ⟨rfl, rfl⟩ rfl (by unfold goodBounds; decide) (by decide)⟩,
    ⟨t _ rfl rfl _, rfl,
      .permNotSubset h1 _ rfl ⟨rfl, rfl⟩ rfl good (by decide) fun h => absurd (h.1 rfl) (by decide)⟩,
    ⟨t _ rfl rfl _, rfl,
      .holdersNotSubset h1 _ rfl ⟨rfl, rfl⟩ rfl good (by decide) pw fun h => absurd (h 0 rfl) (by decide)⟩,
    ⟨t _ rfl rfl _, rfl, .tooDeep h1 _ (sound_of _ _ ⟨rfl, rfl⟩ rfl (by decide) rfl rfl) (by decide)⟩,
    ⟨t _ rfl rfl _, rfl,
      .badRelocation h1 childWindow ⟨rfl, ⟨rfl, rfl⟩, rfl, good, by decide, pw, fun n h => ?_⟩ (by decide)
        fun h => absurd (h _ rfl).1 (by decide)⟩,
    ⟨t _ rfl rfl _, rfl,
      .tableFull h1 _ (sound_of _ _ ⟨rfl, rfl⟩ rfl (by decide) rfl rfl) (by decide) nofun
        (by unfold State.tableFull; decide +kernel)⟩⟩
  · cases hg; decide +kernel
  · revert n; decide

/-- A SHRINK of slot 1 to the values it has but for what is given. -/
def shrinkBytes (h : Handle) (base limit : Nat) (holders : BitVec 8) : List Byte :=
  encodeShrink h base limit ⟨true, true, true⟩ holders

def RefusesShrink (s : State) (p : List Byte) (a : ShrinkArgs) (o : CmdOutcome) : Prop :=
  Takes (commandedIn s .shrink p) ⟨7#8, .shrink, p⟩ [] 0 ∧ shrinkArgs p = some a ∧
    ShrinkFails (commandedIn s .shrink p) a o

/-- Slot 1 without its child, so that only a default stands in the way. -/
def childless : State :=
  { running with windows := resetWindows.set 1 ⟨0#8, .live { childWindow with children := 0#64 }⟩ }

theorem witness_RefusedCommandsOnlyAnswer_shrink :
    (Takes (commanded .shrink (List.replicate 16 0xFF#8)) ⟨7#8, .shrink, List.replicate 16 0xFF#8⟩ [] 0 ∧
      shrinkArgs (List.replicate 16 0xFF#8) = none) ∧
    RefusesShrink running (shrinkBytes ⟨3, 0#8⟩ 0x1000 0x3000 255#8)
      ⟨some ⟨3, 0#8⟩, 0x1000, 0x3000, ⟨true, true, true⟩, 255#8⟩ .staleHandle ∧
    RefusesShrink running (shrinkBytes ⟨0, 0#8⟩ 0x1000 0x3000 255#8)
      ⟨some ⟨0, 0#8⟩, 0x1000, 0x3000, ⟨true, true, true⟩, 255#8⟩ .rootProtected ∧
    RefusesShrink (revokingState 0 .stopped) (shrinkBytes h1 0x1000 0x3000 255#8)
      ⟨some h1, 0x1000, 0x3000, ⟨true, true, true⟩, 255#8⟩ .windowRevoking ∧
    RefusesShrink running (shrinkBytes h1 0x1000 0x1000 255#8)
      ⟨some h1, 0x1000, 0x1000, ⟨true, true, true⟩, 255#8⟩ .badBounds ∧
    RefusesShrink running (shrinkBytes h1 0x1000 0x3040 255#8)
      ⟨some h1, 0x1000, 0x3040, ⟨true, true, true⟩, 255#8⟩ .notNarrower ∧
    RefusesShrink running (shrinkBytes h1 0x1040 0x3000 255#8)
      ⟨some h1, 0x1040, 0x3000, ⟨true, true, true⟩, 255#8⟩ .childConflict ∧
    RefusesShrink childless (shrinkBytes h1 0x1000 0x3000 0xFE#8)
      ⟨some h1, 0x1000, 0x3000, ⟨true, true, true⟩, 0xFE#8⟩ .defaultConflict := by
  have pw : permsWithin ⟨true, true, true⟩ ⟨true, true, true⟩ := ⟨fun h => h, fun h => h, fun h => h⟩
  have good : goodBounds 0x1000 0x3000 := by unfold goodBounds; decide
  have t (s : State) (hr : s.resetn = true) (he : s.bank.slots[(0 : RespIx)] = .empty) (p : List Byte) :
      Takes (commandedIn s .shrink p) ⟨7#8, .shrink, p⟩ [] 0 := takes_in s hr he .shrink p
  refine ⟨⟨takes_commanded _ _, rfl⟩, ⟨t _ rfl rfl _, rfl, .staleHandle fun g hg => .inl ?_⟩,
    ⟨t _ rfl rfl _, rfl, .rootProtected _ rfl ?_ rfl⟩,
    ⟨t _ rfl rfl _, rfl, .windowRevoking h1 rfl (by decide) ⟨rfl, _, _, rfl⟩⟩,
    ⟨t _ rfl rfl _, rfl, .badBounds h1 childWindow rfl (by decide) ⟨rfl, rfl⟩ fun h => absurd h.2.2.1 (by decide)⟩,
    ⟨t _ rfl rfl _, rfl,
      .notNarrower h1 childWindow rfl (by decide) ⟨rfl, rfl⟩ (by unfold goodBounds; decide) fun h =>
        absurd h.2.1 (by decide)⟩,
    ⟨t _ rfl rfl _, rfl,
      .childConflict h1 childWindow rfl (by decide) ⟨rfl, rfl⟩ (by unfold goodBounds; decide)
        ⟨by decide, by decide, pw, fun _ h => h⟩ fun h => absurd (h 2 grandchildWindow (by decide) rfl).1 (by decide)⟩,
    ⟨t _ rfl rfl _, rfl,
      .defaultConflict h1 _ rfl (by decide) ⟨rfl, rfl⟩ good
        ⟨by decide, by decide, pw, fun n _ => by revert n; decide⟩
        (fun i c h => ?_) fun h => (h 0 (by decide) (by decide)).1 rfl⟩⟩
  · cases hg; decide +kernel
  · rintro (h | h)
    · exact nomatch h
    · exact h rfl
  · exact absurd h (by
      show ¬(0#64).getLsbD i.val = true
      revert i; decide)

/-- A list of four entries whose roots lie outside slot 1's subtree. -/
def busyList : State :=
  { running with
    revocations := [⟨⟨9, 0#8⟩, 4, [], .stopped, true⟩, ⟨⟨10, 0#8⟩, 5, [], .stopped, true⟩,
      ⟨⟨11, 0#8⟩, 6, [], .stopped, true⟩, ⟨⟨12, 0#8⟩, 7, [], .stopped, true⟩] }

def RefusesRevoke (s : State) (p : List Byte) (o : CmdOutcome) : Prop :=
  Takes (commandedIn s .revoke p) ⟨7#8, .revoke, p⟩ [] 0 ∧ RevokeFails (commandedIn s .revoke p) (handleAt p 0) o

theorem witness_RefusedCommandsOnlyAnswer_revoke :
    RefusesRevoke running [255#8, 0#8] .staleHandle ∧ RefusesRevoke running [2#8, 4#8] .staleHandle ∧
      RefusesRevoke running [0#8, 0#8] .rootProtected ∧
      RefusesRevoke (revokingState 0 .stopped) [2#8, 255#8] .alreadyRevoking ∧
      RefusesRevoke busyList [1#8, 0#8] .queueFull := by
  have t (s : State) (hr : s.resetn = true) (he : s.bank.slots[(0 : RespIx)] = .empty) (p : List Byte) :
      Takes (commandedIn s .revoke p) ⟨7#8, .revoke, p⟩ [] 0 := takes_in s hr he .revoke p
  refine ⟨⟨t _ rfl rfl _, .staleHandle nofun⟩, ⟨t _ rfl rfl _, .staleHandle fun g hg => .inr ?_⟩,
    ⟨t _ rfl rfl _, .rootProtected ⟨0, 0#8⟩ rfl ?_ rfl⟩,
    ⟨t _ rfl rfl _, .alreadyRevoking ⟨2, 255#8⟩ rfl (by decide) ⟨rfl, _, _, rfl⟩⟩,
    ⟨t _ rfl rfl _, .queueFull h1 childWindow rfl (by decide) ⟨rfl, rfl⟩ (by decide +kernel)⟩⟩
  · obtain rfl : (⟨2, 4#8⟩ : Handle) = g := Option.some.inj hg
    decide +kernel
  · rintro (h | h)
    · exact nomatch h
    · exact h rfl

def RefusesBind (s : State) (p : List Byte) (n : Initiator) (o : CmdOutcome) : Prop :=
  Takes (commandedIn s .bindDefault p) ⟨7#8, .bindDefault, p⟩ [] 0 ∧ initiatorAt p 0 = some n ∧
    BindFails (commandedIn s .bindDefault p) n (bindingOf p) o

theorem witness_RefusedCommandsOnlyAnswer_bind :
    (Takes (commanded .bindDefault [8#8, 1#8, 1#8, 0#8]) ⟨7#8, .bindDefault, [8#8, 1#8, 1#8, 0#8]⟩ [] 0 ∧
      initiatorAt [8#8, 1#8, 1#8, 0#8] 0 = none) ∧
    RefusesBind running [7#8, 0xFF#8, 64#8, 0#8] 7 .staleHandle ∧
    RefusesBind running [0#8, 1#8, 2#8, 4#8] 0 .staleHandle ∧
    RefusesBind (revokingState 0 .stopped) [0#8, 1#8, 1#8, 0#8] 0 .windowRevoking ∧
    RefusesBind running [1#8, 1#8, 2#8, 5#8] 1 .notHolder := by
  have t (s : State) (hr : s.resetn = true) (he : s.bank.slots[(0 : RespIx)] = .empty) (p : List Byte) :
      Takes (commandedIn s .bindDefault p) ⟨7#8, .bindDefault, p⟩ [] 0 := takes_in s hr he .bindDefault p
  refine ⟨⟨takes_commanded _ _, rfl⟩, ⟨t _ rfl rfl _, rfl, .staleHandle _ nofun⟩,
    ⟨t _ rfl rfl _, rfl, .staleHandle _ fun g hg => .inr ?_⟩,
    ⟨t _ rfl rfl _, rfl, .windowRevoking h1 ⟨rfl, _, _, rfl⟩⟩,
    ⟨t _ rfl rfl _, rfl, .notHolder h2 grandchildWindow ⟨rfl, rfl⟩ (by decide)⟩⟩
  obtain rfl : (⟨2, 4#8⟩ : Handle) = g := Option.some.inj hg
  decide +kernel

/-- Slot 2 kept as its one child needs it, its holders all kept. -/
theorem witness_ShrinkNarrowsOneWindow :
    ∃ a, shrinkArgs (shrinkBytes h1 0x1000 0x2000 255#8) = some a ∧
      Takes (commanded .shrink (shrinkBytes h1 0x1000 0x2000 255#8))
        ⟨7#8, .shrink, shrinkBytes h1 0x1000 0x2000 255#8⟩ [] 0 ∧
      a.handle = some h1 ∧ h1.index ≠ 0 ∧
      (commanded .shrink (shrinkBytes h1 0x1000 0x2000 255#8)).namesLive h1 childWindow ∧ goodBounds a.base a.limit ∧
      a.narrows childWindow ∧
      (commanded .shrink (shrinkBytes h1 0x1000 0x2000 255#8)).childrenStillFit childWindow a ∧
      (commanded .shrink (shrinkBytes h1 0x1000 0x2000 255#8)).defaultsStillHeld h1 childWindow a := by
  refine ⟨⟨some h1, 0x1000, 0x2000, ⟨true, true, true⟩, 255#8⟩, rfl, takes_commanded _ _, rfl, by decide, ⟨rfl, rfl⟩,
    by unfold goodBounds; decide, ⟨by decide, by decide, ⟨fun h => h, fun h => h, fun h => h⟩, fun _ h => h⟩,
    fun i c hi hc => ?_, fun n h h' => absurd (h.symm.trans h') (by decide)⟩
  have : i = 2 := by
    have h : ∀ j : SlotIx, (slotBit 2).getLsbD j.val = true → j = 2 := by decide
    exact h i hi
  subst this
  obtain rfl : grandchildWindow = c := Option.some.inj hc
  exact ⟨by decide, by decide, ⟨fun _ => rfl, fun _ => rfl, fun _ => rfl⟩, fun n h => by revert n; decide⟩

theorem witness_ReadWindowReturnsTheRecord :
    (Takes (commanded .readWindow [63#8]) ⟨7#8, .readWindow, [63#8]⟩ [] 0 ∧
      (byteAt [63#8] 0).toNat = (63 : SlotIx).val) ∧
    Takes (commanded .readWindow [64#8]) ⟨7#8, .readWindow, [64#8]⟩ [] 0 ∧ 64 ≤ (byteAt [64#8] 0).toNat :=
  ⟨⟨takes_commanded _ _, rfl⟩, takes_commanded _ _, by decide⟩

/-! ### Witnesses: revocation -/

/-- I0 with default 1/0 and 2/5 pending, and slot 2 already under a revocation of its own. -/
def absorbingState : State :=
  { commandedIn (stagedState false) .revoke [1#8, 0#8] with
    windows := (stagedState false).windows.set 2 ⟨5#8, .revoking grandchildWindow 2⟩
    revocations := [⟨h2, 4, [5], .stopped, true⟩, ⟨⟨9, 0#8⟩, 6, [], .stopped, true⟩,
      ⟨⟨10, 0#8⟩, 7, [], .stopped, true⟩, ⟨⟨11, 0#8⟩, 7, [], .stopped, true⟩] }

theorem witness_RevokeMarksTheWholeSubtree :
    (absorbingState.bank.slots[(3 : RespIx)] = .reserved 9#8 .bindDefault ∧
      ∀ seq code, running.bank.slots[(3 : RespIx)] ≠ .reserved seq code) ∧
    Takes absorbingState ⟨7#8, .revoke, [1#8, 0#8]⟩ [] 0 ∧ handleAt [1#8, 0#8] 0 = some h1 ∧ h1.index ≠ 0 ∧
      absorbingState.namesLive h1 { childWindow with inFlight := 0 } ∧
      subtreeOf absorbingState.windows h1.index = 6#64 ∧
      (absorbingState.revocations.filter fun e => !(6#64).getLsbD e.root.index.val).length + 1 ≤ 4 ∧
      absorbingState.windows[(1 : SlotIx)].occ = .live { childWindow with inFlight := 0 } ∧
      absorbingState.windows[(2 : SlotIx)].occ = .revoking grandchildWindow 2 ∧
      absorbingState.contexts[(0 : Initiator)].rebind.pending? = some ⟨some h2, 3, 9, false⟩ ∧
      (6#64).getLsbD h2.index.val = true :=
  ⟨⟨rfl, nofun⟩, ⟨rfl, rfl, rfl, fun j hj => absurd hj (Fin.not_lt_zero j)⟩, rfl, by decide, ⟨rfl, rfl⟩,
    by decide +kernel, by decide +kernel, rfl, rfl, rfl, by decide⟩

/-- Drained, one count short of drained, and no entry at the place tested. -/
theorem witness_SubtreeFreeReleasesDrainedSubtree :
    (∃ e w p, (revokingState 0 .stopped).resetn = true ∧ (revokingState 0 .stopped).revocations[0]? = some e ∧
      drainSum (revokingState 0 .stopped).windows e.root.index = 0 ∧
      (revokingState 0 .stopped).windows[e.root.index].occ = .revoking w e.root.index ∧ w.parent = some p ∧
      (revokingState 0 .stopped).windows[p].coveredBy e.root.index = false) ∧
    (∃ e, (revokingState 1 .stopped).revocations[0]? = some e ∧
      drainSum (revokingState 1 .stopped).windows e.root.index ≠ 0) ∧
    (revokingState 0 .stopped).revocations.length ≤ 1 :=
  ⟨⟨⟨h1, 4, [5], .stopped, false⟩, childWindow, 0, rfl, rfl, by decide +kernel, rfl, rfl, by decide +kernel⟩,
    ⟨⟨h1, 4, [5], .stopped, false⟩, rfl, by decide +kernel⟩, by decide⟩

/-- The free of slots 1 and 2, seen from slot 1 and the slot below it. -/
theorem witness_RevokingWindowFreedOnlyWhenDrained :
    StepsTo (.subtreeFree 0) (revokingState 0 .stopped) (after (.subtreeFree 0) (revokingState 0 .stopped)) ∧
      WindowLaw (revokingState 0 .stopped) ∧ CountLaw (revokingState 0 .stopped) ∧
      (revokingState 0 .stopped).windows[(1 : SlotIx)].isRevoking = true ∧
      (after (.subtreeFree 0) (revokingState 0 .stopped)).windows[(1 : SlotIx)].isFree = true ∧
      (subtreeOf (revokingState 0 .stopped).windows 1).getLsbD (2 : SlotIx).val = true :=
  ⟨⟨rfl, rfl, by decide +kernel⟩, window_revoking 0, fun i => by revert i; decide +kernel, rfl, by decide +kernel,
    by decide +kernel⟩

/-- A SHRINK, which narrows a window, and a free, which advances a generation. -/
theorem witness_AuthorityOnlyNarrows :
    (StepsTo .shrink (commanded .shrink (shrinkBytes h1 0x1000 0x2000 255#8))
        (after .shrink (commanded .shrink (shrinkBytes h1 0x1000 0x2000 255#8))) ∧
      (commanded .shrink (shrinkBytes h1 0x1000 0x2000 255#8)).windows[(1 : SlotIx)].occ.window? = some childWindow ∧
      (after .shrink (commanded .shrink (shrinkBytes h1 0x1000 0x2000 255#8))).windows[(1 : SlotIx)].occ.window?
        = some { childWindow with limit := 0x2000 }) ∧
    StepsTo (.subtreeFree 0) (revokingState 0 .stopped) (after (.subtreeFree 0) (revokingState 0 .stopped)) ∧
      (after (.subtreeFree 0) (revokingState 0 .stopped)).windows[(1 : SlotIx)].gen
        ≠ (revokingState 0 .stopped).windows[(1 : SlotIx)].gen :=
  ⟨⟨⟨rfl, rfl, by decide +kernel⟩, rfl, by decide +kernel⟩, ⟨rfl, rfl, by decide +kernel⟩, by decide +kernel⟩

/-! ### Witnesses: contexts -/

/-- I0 with `undelivered` requests and a rebind state, the staging command in response slot 3, and a drain
deadline. -/
def bindingState (undelivered deadline : Nat) (r : Rebind) : State :=
  { commanded .bindDefault [0#8, 1#8, 2#8, 5#8] with
    contexts := running.contexts.set 0 { context0 with undelivered := undelivered, rebind := r }
    settings := { powerOnSettings with drainDeadline := deadline }
    bank := { running.bank with slots := running.bank.slots.set 3 (.reserved 9#8 .bindDefault) } }

/-- The five ways a binding ends, each with a handle that passes; and the binding that clears. -/
theorem witness_BindDefaultCommitsStagesOrReplaces :
    (∀ (u d : Nat) (r : Rebind), Takes (bindingState u d r) ⟨7#8, .bindDefault, [0#8, 1#8, 2#8, 5#8]⟩ [] 0 ∧
      BindPasses (bindingState u d r) 0 (bindingOf [0#8, 1#8, 2#8, 5#8]) (some h2)) ∧
    initiatorAt [0#8, 1#8, 2#8, 5#8] 0 = some 0 ∧
    ((bindingState 0 1000 .none).contexts[(0 : Initiator)].rebind = .none ∧
      (bindingState 0 1000 .none).contexts[(0 : Initiator)].undelivered = 0) ∧
    (0 < (bindingState 1 1 .none).contexts[(0 : Initiator)].undelivered ∧
      0 < (bindingState 1 1 .none).settings.drainDeadline) ∧
    (bindingState 1 0 .none).settings.drainDeadline = 0 ∧
    ((bindingState 8 0 (.staged ⟨none, 3, 9, false⟩)).bank.slots[(3 : RespIx)] = .reserved 9#8 .bindDefault ∧
      (bindingState 8 0 (.staged ⟨none, 3, 9, false⟩)).contexts[(0 : Initiator)].rebind
        = .staged ⟨none, 3, 9, false⟩) ∧
    (bindingState 8 0 (.fencing ⟨none, 3, 9, false⟩)).contexts[(0 : Initiator)].rebind
      = .fencing ⟨none, 3, 9, false⟩ ∧
    BindPasses running 0 (bindingOf [0#8, 0#8, 2#8, 5#8]) none :=
  ⟨fun _ _ _ => ⟨⟨rfl, rfl, rfl, fun j hj => absurd hj (Fin.not_lt_zero j)⟩,
      .handle h2 grandchildWindow ⟨rfl, rfl⟩ (by decide)⟩,
    rfl, ⟨rfl, rfl⟩, ⟨by decide +kernel, by decide⟩, rfl, ⟨rfl, rfl⟩, rfl, .clear⟩

/-- A commit by a delivery, a commit by BIND_DEFAULT, and a REVOKE that clears. -/
theorem witness_CurrentDefaultChangesOnlyAtCommitOrRevoke :
    (StepsTo (.delivery 1#8) (stagedState false) (after (.delivery 1#8) (stagedState false)) ∧
      (after (.delivery 1#8) (stagedState false)).contexts[(0 : Initiator)].current
        ≠ (stagedState false).contexts[(0 : Initiator)].current) ∧
    (StepsTo .bindDefault (bindingState 0 1000 .none) (after .bindDefault (bindingState 0 1000 .none)) ∧
      (after .bindDefault (bindingState 0 1000 .none)).contexts[(0 : Initiator)].current
        ≠ (bindingState 0 1000 .none).contexts[(0 : Initiator)].current) ∧
    StepsTo .revoke (commanded .revoke [1#8, 0#8]) (after .revoke (commanded .revoke [1#8, 0#8])) ∧
      (after .revoke (commanded .revoke [1#8, 0#8])).contexts[(0 : Initiator)].current
        ≠ (commanded .revoke [1#8, 0#8]).contexts[(0 : Initiator)].current :=
  ⟨⟨⟨rfl, rfl, by decide +kernel⟩, by decide +kernel⟩, ⟨⟨rfl, rfl, by decide +kernel⟩, by decide +kernel⟩,
    ⟨rfl, rfl, by decide +kernel⟩, by decide +kernel⟩

theorem witness_SetInitiatorSetsStateAndPolicy :
    (Takes (commanded .setInitiator [7#8, 1#8, 1#8]) ⟨7#8, .setInitiator, [7#8, 1#8, 1#8]⟩ [] 0 ∧
      (byteAt [7#8, 1#8, 1#8] 0).toNat = (7 : Initiator).val ∧ (byteAt [7#8, 1#8, 1#8] 1).toNat ≤ 1 ∧
      (byteAt [7#8, 1#8, 1#8] 2).toNat ≤ 1) ∧
    (Takes (commanded .setInitiator [8#8, 0#8, 0#8]) ⟨7#8, .setInitiator, [8#8, 0#8, 0#8]⟩ [] 0 ∧
      8 ≤ (byteAt [8#8, 0#8, 0#8] 0).toNat) ∧
    Takes (commanded .setInitiator [7#8, 2#8, 1#8]) ⟨7#8, .setInitiator, [7#8, 2#8, 1#8]⟩ [] 0 ∧
      (byteAt [7#8, 2#8, 1#8] 0).toNat < 8 ∧ 2 ≤ (byteAt [7#8, 2#8, 1#8] 1).toNat ∧
      2 ≤ (byteAt [7#8, 0#8, 2#8] 2).toNat :=
  ⟨⟨takes_commanded _ _, rfl, by decide, by decide⟩, ⟨takes_commanded _ _, by decide⟩, takes_commanded _ _,
    by decide, by decide, by decide⟩

theorem witness_ReadInitiatorReturnsTheContext :
    (Takes (commanded .readInitiator [7#8]) ⟨7#8, .readInitiator, [7#8]⟩ [] 0 ∧
      (byteAt [7#8] 0).toNat = (7 : Initiator).val) ∧
    (Takes (commanded .readInitiator [8#8]) ⟨7#8, .readInitiator, [8#8]⟩ [] 0 ∧ 8 ≤ (byteAt [8#8] 0).toNat) ∧
    ∀ r : Rebind, r = .none ∨ r = .staged ⟨none, 3, 0, false⟩ ∨ r = .fencing ⟨some h2, 3, 65535, false⟩ →
      ({ context0 with rebind := r, undelivered := 8 } : Context).undelivered < 256 ∧
      ∀ p, r.pending? = some p → p.elapsed < 65536 :=
  ⟨⟨takes_commanded _ _, rfl⟩, ⟨takes_commanded _ _, by decide⟩, fun r hr => ⟨(by decide : 8 < 256), fun p hp => by
    rcases hr with rfl | rfl | rfl
    · exact nomatch hp
    · cases hp; decide
    · cases hp; decide⟩⟩

/-! ### Witnesses: log, settings, status -/

/-- A matching event, and one that does not match before 14 and before 15 older records. -/
theorem witness_EventLogCoalescesStartsOrLoses :
    ((newRecord 0#16 0#32 (strayEvent 1)).kind = (strayEvent 2).kind ∧
      (newRecord 0#16 0#32 (strayEvent 1)).desc.initiator = (strayEvent 2).desc.initiator ∧
      (newRecord 0#16 0#32 (strayEvent 1)).desc.window = (strayEvent 2).desc.window) ∧
    (newRecord 0#16 0#32 (strayEvent 1)).kind ≠ (portEvent .lateResponse 1 txn).kind ∧
    (List.replicate 14 (newRecord 0#16 0#32 (strayEvent 1))).length < 15 ∧
    15 ≤ (List.replicate 15 (newRecord 0#16 0#32 (strayEvent 1))).length :=
  ⟨⟨rfl, rfl, rfl⟩, by decide, by decide +kernel, by decide +kernel⟩

/-- A SET_CONTROL payload with this prescale and these enables. -/
def controlBytes (hi lo ev rs : Byte) : List Byte := [hi, lo, 3#8, 0xE8#8, 0x10#8, 0#8, 0x20#8, 0#8, ev, rs]

/-- A prescale of 1024, of 0, of 1025, and an enable of 2. -/
theorem witness_SetControlWritesAllOrNone :
    (∀ p, Takes (commanded .setControl p) ⟨7#8, .setControl, p⟩ [] 0) ∧
      (fieldAt (controlBytes 4#8 0#8 1#8 0#8) 0 2 = 1024 ∧
        (byteAt (controlBytes 4#8 0#8 1#8 0#8) 8).toNat ≤ 1 ∧ (byteAt (controlBytes 4#8 0#8 1#8 0#8) 9).toNat ≤ 1) ∧
      fieldAt (controlBytes 0#8 0#8 1#8 0#8) 0 2 = 0 ∧ 1024 < fieldAt (controlBytes 4#8 1#8 1#8 0#8) 0 2 ∧
      2 ≤ (byteAt (controlBytes 0#8 1#8 2#8 0#8) 8).toNat ∧ 2 ≤ (byteAt (controlBytes 0#8 1#8 0#8 255#8) 9).toNat :=
  ⟨fun _ => takes_commanded _ _, ⟨by decide, by decide, by decide⟩, by decide, by decide, by decide, by decide⟩

theorem witness_ReadEventRemovesTheOldest :
    (Takes { commanded .readEvent [] with log := (⟨[], 0#16⟩ : EventLog).hand 7#32 (strayEvent 1) }
        ⟨7#8, .readEvent, []⟩ [] 0 ∧
      ((⟨[], 0#16⟩ : EventLog).hand 7#32 (strayEvent 1)).records = [newRecord 0#16 7#32 (strayEvent 1)]) ∧
    Takes (commanded .readEvent []) ⟨7#8, .readEvent, []⟩ [] 0 ∧ (commanded .readEvent []).log.records = [] :=
  ⟨⟨⟨rfl, rfl, rfl, fun j hj => absurd hj (Fin.not_lt_zero j)⟩, rfl⟩, takes_commanded _ _, rfl⟩

theorem witness_ReadStatusReportsTheCounts :
    Takes (commanded .readStatus []) ⟨7#8, .readStatus, []⟩ [] 0 ∧ (⟨7#8, .readStatus, []⟩ : Frame).code = .readStatus :=
  ⟨takes_commanded _ _, rfl⟩

end Sys2Proof.Tests
end

