-- ==== Sys2Proof/Proofs/Forwarding.lean ====
section
/-! SUPPORT. Which requests wait to be sent downstream, and what each command does with them: a TAKE adds one, a
DOWNSTREAM_ACCEPT sends one, a RESET_MEMORY_PORT drops them, and every other command leaves them as they are. -/

namespace Sys2Proof.Machine

/-! ### The request of a QUEUED entry -/

/-- What a QUEUED entry holds for the downstream side: its record and its write data (R77). -/
def Entry.waiting : Entry → Option (Txn × List Beat)
  | .queued x data => some (x, data)
  | _ => none

theorem Entry.waiting_some {e : Entry} {x : Txn} {data : List Beat} :
    e.waiting = some (x, data) ↔ e = .queued x data := by
  cases e <;> simp [Entry.waiting]

theorem Entry.waiting_none {e : Entry} : e.waiting = none ↔ e.isQueued = false := by
  cases e <;> simp [Entry.waiting, Entry.isQueued]

@[simp] theorem Entry.waiting_expire (e : Entry) : e.expire.waiting = e.waiting := by
  unfold Entry.expire
  split <;> rfl

@[simp] theorem Entry.waiting_tick (setting : Nat) (e : Entry) : (e.tick setting).waiting = e.waiting := by
  cases e <;> rfl

@[simp] theorem Entry.waiting_afterDelivery (e : Entry) : e.afterDelivery.waiting = none := by
  unfold Entry.afterDelivery
  split <;> rfl

theorem Entry.waiting_of_deliverable {e : Entry} (h : e.deliverable = true) : e.waiting = none := by
  cases e with
  | queued => cases h
  | _ => rfl

/-- The start of a port reset completes a QUEUED entry and makes no other QUEUED (R113). -/
theorem Entry.waiting_portReset (e : Entry) : e.portReset.waiting = none := by
  cases e <;> rfl

theorem entry_set (tr : Vector Entry 32) (t u : Tag) (e : Entry) :
    (tr.set t e)[u] = if u = t then e else tr[u] :=
  updAt_get tr t u fun _ => e

/-! ### States with the same requests waiting -/

/-- The same entries are QUEUED with the same requests, and nothing was sent downstream. -/
structure SameWaiting (s t : State) : Prop where
  waiting : ∀ τ : Tag, t.tracker[τ].waiting = s.tracker[τ].waiting
  sent : t.dnOut = s.dnOut

namespace SameWaiting

theorem of_eq {s t : State} (htracker : t.tracker = s.tracker) (hsent : t.dnOut = s.dnOut) : SameWaiting s t :=
  ⟨fun τ => by rw [htracker], hsent⟩

theorem refl (s : State) : SameWaiting s s :=
  of_eq rfl rfl

theorem trans {s t u : State} (h₁ : SameWaiting s t) (h₂ : SameWaiting t u) : SameWaiting s u :=
  ⟨fun τ => (h₂.waiting τ).trans (h₁.waiting τ), h₂.sent.trans h₁.sent⟩

theorem of_ite {s t : State} {p : Prop} [Decidable p] (h : SameWaiting s t) :
    SameWaiting s (if p then t else s) := by
  split
  · exact h
  · exact refl s

/-- Every entry is changed by a function that leaves QUEUED entries and makes none. -/
theorem of_map {s t : State} {f : Entry → Entry} (hf : ∀ e : Entry, (f e).waiting = e.waiting)
    (htracker : t.tracker = s.tracker.map f) (hsent : t.dnOut = s.dnOut) : SameWaiting s t :=
  ⟨fun τ => by simp [htracker, hf], hsent⟩

/-- One entry that is not QUEUED becomes another that is not. -/
theorem of_set {s t : State} {u : Tag} {e : Entry} (hold : s.tracker[u].waiting = none) (hnew : e.waiting = none)
    (htracker : t.tracker = s.tracker.set u e) (hsent : t.dnOut = s.dnOut) : SameWaiting s t := by
  refine ⟨fun τ => ?_, hsent⟩
  rw [htracker, entry_set]
  split
  next h => rw [h, hold, hnew]
  next => rfl

theorem queued_iff {s t : State} (h : SameWaiting s t) {τ : Tag} {x : Txn} {data : List Beat} :
    t.tracker[τ] = .queued x data ↔ s.tracker[τ] = .queued x data := by
  rw [← Entry.waiting_some, h.waiting, Entry.waiting_some]

end SameWaiting

/-! ### Time and timers -/

theorem endHold_sameWaiting (s : State) (dnReady : Bool) : SameWaiting s (s.endHold dnReady) := by
  unfold State.endHold
  split
  · split
    · cases dnReady <;> exact .of_eq rfl rfl
    · exact .refl s
  · exact .refl s

theorem expireResponses_sameWaiting (s : State) : SameWaiting s s.expireResponses :=
  .of_map Entry.waiting_expire rfl rfl

theorem expireDrains_sameWaiting (s : State) : SameWaiting s s.expireDrains :=
  .of_eq rfl rfl

theorem expireStalls_sameWaiting (s : State) : SameWaiting s s.expireStalls :=
  .of_eq rfl rfl

theorem tickNow_sameWaiting (s : State) : SameWaiting s s.tickNow :=
  .of_map (Entry.waiting_tick s.settings.responseTimeout) rfl s.tickNow_dnOut

theorem settle_sameWaiting (s : State) : SameWaiting s s.settle :=
  (((endHold_sameWaiting s false).trans (expireResponses_sameWaiting _)).trans (expireDrains_sameWaiting _)).trans
    (expireStalls_sameWaiting _)

/-! ### Requests, responses and deliveries -/

theorem arrive_sameWaiting (s : State) (n : Initiator) (r : Request) : SameWaiting s (s.arrive n r) :=
  .of_ite (.of_eq rfl rfl)

/-- A timely response completes its entry, whatever its status. -/
theorem timely_tracker (s : State) (u : Tag) (x : Txn) (status : DnStatus) (data : List Beat) :
    (∃ o, (s.timely u x status data).tracker = s.tracker.set u (.done x o)) ∧
      (s.timely u x status data).dnOut = s.dnOut := by
  unfold State.timely
  refine ⟨⟨if responseOk x status data then .okay else .memoryError, ?_⟩, ?_⟩ <;> dsimp only <;>
    split <;> split <;> rfl

/-- A response changes only an ISSUED, EXPIRED or ORPHANED entry, and makes it no QUEUED one (R105 to R108). -/
theorem respond_sameWaiting (s : State) (u : Tag) (status : DnStatus) (data : List Beat) :
    SameWaiting s (s.respond u status data) := by
  unfold State.respond
  split
  · split
    next x _ _ h =>
      obtain ⟨⟨o, ht⟩, hd⟩ := timely_tracker s u x status data
      exact .of_set (by rw [h]; rfl) rfl ht hd
    next h => exact .of_set (by rw [h]; rfl) rfl rfl rfl
    next h => exact .of_set (by rw [h]; rfl) rfl rfl rfl
    next => exact .of_eq rfl rfl
  · exact .refl s

theorem deliverHead_tracker (s : State) (n : Initiator) (u : Tag) :
    (s.deliverHead n u).tracker = s.tracker.set u s.tracker[u].afterDelivery ∧
      (s.deliverHead n u).dnOut = s.dnOut := by
  unfold State.deliverHead
  dsimp only
  split <;> exact ⟨rfl, rfl⟩

/-- A delivery takes up a deliverable entry, which no QUEUED one is (R88, R92). -/
theorem deliverOne_sameWaiting (s : State) (accepting : BitVec 8) : SameWaiting s (s.deliverOne accepting) := by
  unfold State.deliverOne
  split
  next n hn =>
    have hhead : s.deliverableHead n = true := ((Bool.and_eq_true _ _).mp (roundRobin_some.mp hn).1).2
    split
    next u rest hl =>
      have hu : s.tracker[u].deliverable = true := by simpa only [State.deliverableHead, hl] using hhead
      obtain ⟨ht, hd⟩ := deliverHead_tracker s n u
      exact .of_set (Entry.waiting_of_deliverable hu) (Entry.waiting_afterDelivery _) ht hd
    next => exact .refl s
  next => exact .refl s

/-! ### The port, the drain test and the link -/

theorem testDrain_sameWaiting (s : State) (pos : Nat) : SameWaiting s (s.testDrain pos) := by
  unfold State.testDrain
  split
  · exact .of_ite (.of_eq (s.freeSubtree_tracker _ _) (s.freeSubtree_dnOut _ _))
  · exact .refl s

theorem releaseReset_high {s : State} (bootEn : Bool) (bootId : Initiator) (csLow : Bool) (h : s.resetn = true) :
    s.releaseReset bootEn bootId csLow = s :=
  if_pos h

/-- No edge on the link's wires touches the tracker or the port, whether RESETN is high or low. -/
theorem spiEdge_sameWaiting (s : State) (e : SpiEdge) : SameWaiting s (s.spiEdge e) := by
  cases hr : s.resetn with
  | false =>
    obtain ⟨session, bits, -, h, -⟩ := spiEdge_low e hr
    rw [h]
    exact .of_eq rfl rfl
  | true =>
    rcases spiEdge_cases e hr with h | ⟨-, -, h⟩ | ⟨mosi, a, -, -, -, h⟩ | ⟨a, -, -, -, h⟩ | ⟨a, -, -, h⟩ <;> rw [h]
    · exact .refl s
    · exact .of_eq rfl rfl
    · exact .of_eq rfl rfl
    · unfold State.sclkFalls
      split <;> exact .of_eq rfl rfl
    · unfold State.csRises
      dsimp only
      split <;> exact .of_eq rfl rfl

theorem runEdges_sameWaiting (own : State → SpiEdge → Bool) (edges : List SpiEdge) (s : State) :
    SameWaiting s (runEdges own edges s) := by
  have keeps : ∀ u e, SameWaiting s u → own u e = true → SameWaiting s (u.spiEdge e) :=
    fun u e h _ => h.trans (spiEdge_sameWaiting u e)
  exact runEdges_keeps keeps edges s (.refl s)

/-! ### Commands of the table controller -/

/-- A command whose execution leaves the waiting requests leaves them when it is taken, too. -/
theorem runCommand_sameWaiting {code : CommandCode} {body : RespIx → List Byte → State → State} {s t : State}
    (hbody : ∀ k p u, SameWaiting u (body k p u)) (h : runCommand code body s = .next t) : SameWaiting s t := by
  rcases runCommand_cases code body s with ⟨f, rest, k, -, -, he⟩ | he <;> rw [he] at h <;> cases h
  · have hdeferred : SameWaiting s (s.deferred f rest k) := .of_eq rfl rfl
    exact hdeferred.trans (hbody k f.payload _)
  · exact .refl s

theorem deriveBody_sameWaiting (k : RespIx) (p : List Byte) (s : State) : SameWaiting s (deriveBody k p s) := by
  unfold deriveBody
  split
  · exact .of_eq rfl rfl
  · split <;> exact .of_eq rfl rfl

theorem shrinkBody_sameWaiting (k : RespIx) (p : List Byte) (s : State) : SameWaiting s (shrinkBody k p s) := by
  unfold shrinkBody
  split
  · exact .of_eq rfl rfl
  · split <;> exact .of_eq rfl rfl

theorem revokeBody_sameWaiting (k : RespIx) (p : List Byte) (s : State) : SameWaiting s (revokeBody k p s) := by
  unfold revokeBody
  split
  · exact .of_eq rfl rfl
  · exact .of_eq (s.acceptRevoke_tracker _ _) (s.acceptRevoke_dnOut _ _)

theorem bind_sameWaiting (s : State) (n : Initiator) (k : RespIx) (target : Option Handle) :
    SameWaiting s (s.bind n k target) := by
  unfold State.bind
  split
  · exact .of_eq rfl rfl
  · split
    · exact .of_eq rfl rfl
    · unfold State.stage
      dsimp only
      split <;> exact .of_eq rfl rfl

theorem bindDefaultBody_sameWaiting (k : RespIx) (p : List Byte) (s : State) :
    SameWaiting s (bindDefaultBody k p s) := by
  unfold bindDefaultBody
  split
  · exact .of_eq rfl rfl
  · split
    · exact .of_eq rfl rfl
    · exact bind_sameWaiting _ _ _ _

theorem setInitiatorBody_sameWaiting (k : RespIx) (p : List Byte) (s : State) :
    SameWaiting s (setInitiatorBody k p s) := by
  unfold setInitiatorBody
  split
  · exact .of_eq rfl rfl
  · split <;> exact .of_eq rfl rfl

theorem setControlBody_sameWaiting (k : RespIx) (p : List Byte) (s : State) :
    SameWaiting s (setControlBody k p s) := by
  unfold setControlBody
  split <;> exact .of_eq rfl rfl

theorem readWindowBody_sameWaiting (k : RespIx) (p : List Byte) (s : State) :
    SameWaiting s (readWindowBody k p s) := by
  unfold readWindowBody
  split <;> exact .of_eq rfl rfl

theorem readInitiatorBody_sameWaiting (k : RespIx) (p : List Byte) (s : State) :
    SameWaiting s (readInitiatorBody k p s) := by
  unfold readInitiatorBody
  split <;> exact .of_eq rfl rfl

theorem readEventBody_sameWaiting (k : RespIx) (p : List Byte) (s : State) :
    SameWaiting s (readEventBody k p s) := by
  unfold readEventBody
  split <;> exact .of_eq rfl rfl

theorem readStatusBody_sameWaiting (k : RespIx) (p : List Byte) (s : State) :
    SameWaiting s (readStatusBody k p s) :=
  .of_eq rfl rfl

/-- A port reset leaves every entry as it is, or resolves every owed one (R112, R113). -/
theorem resetPortBody_tracker (k : RespIx) (p : List Byte) (s : State) :
    ((resetPortBody k p s).tracker = s.tracker ∨ (resetPortBody k p s).tracker = s.tracker.map Entry.portReset) ∧
      (resetPortBody k p s).dnOut = s.dnOut := by
  unfold resetPortBody
  dsimp only
  split
  · exact ⟨.inr rfl, s.startReset_dnOut⟩
  · exact ⟨.inl rfl, rfl⟩

/-! ### TAKE -/

/-- Steps 5 and 6 against a LIVE window pass only where its permissions and bounds fit (R40). -/
theorem judgeAgainst_admitted {s : State} {r : Request} {i ix : SlotIx} {w : Window}
    (hocc : s.windows[i].occ = .live w) (h : s.judgeAgainst r i = .admitted ix) :
    i = ix ∧ w.allows r.kind ∧ w.covers r := by
  simp only [State.judgeAgainst, hocc, Occupancy.window?] at h
  split at h
  · cases h
  next hgrants =>
    split at h
    · cases h
    next hwithin =>
      cases h
      exact ⟨rfl, (grants_iff w r.kind).mp (by simpa using hgrants),
        (withinWindow_iff r w).mp (by simpa using hwithin)⟩

/-- A handle that passes step 3 names a LIVE window with the initiator among its holders (R38). -/
theorem judgeHandle_admitted {s : State} {n : Initiator} {r : Request} {g : Handle} {ix : SlotIx}
    (hg : r.handle = some g) (h : s.judgeHandle n r g = .admitted ix) : ∃ w, JudgedAgainst s n r g.index w := by
  unfold State.judgeHandle at h
  split at h
  · cases h
  next hroot =>
    split at h
    · cases h
    next hvalid =>
      have hgen : s.windows[g.index].gen = g.gen := (validHandle_iff.mp (by simpa using hvalid)).2
      split at h
      · cases h
      · cases h
      next w hocc =>
        split at h
        · cases h
        next hholder => exact ⟨w, .byHandle g w hg hroot ⟨hgen, hocc⟩ (by simpa using hholder)⟩

/-- Without a handle, the default law makes the default's window LIVE and its initiator a holder (R39, R73). -/
theorem judgedAgainst_of_default {s : State} {n : Initiator} {r : Request} {g : Handle} (hlaw : DefaultLaw s)
    (hnone : r.handle = none) (hcurrent : s.contexts[n].current = some g) : ∃ w, JudgedAgainst s n r g.index w := by
  obtain ⟨hgen, w, hocc, hholder⟩ := hlaw n g (.inl hcurrent)
  exact ⟨w, .byDefault g w hnone hcurrent ⟨hgen, hocc⟩ hholder⟩

/-- Steps 1 to 4 pass only for an OPEN initiator's well-placed request with a window to judge against. -/
theorem judge_admitted_passed {s : State} {n : Initiator} {r : Request} {ix : SlotIx} (hlaw : DefaultLaw s)
    (h : s.judge n r = .admitted ix) :
    s.contexts[n].state = .opened ∧ placed r ∧ ∃ i w, JudgedAgainst s n r i w := by
  unfold State.judge at h
  split at h
  · cases h
  next hstate =>
    have hopen : s.contexts[n].state = .opened := by
      cases hs : s.contexts[n].state with
      | opened => rfl
      | closed => exact absurd hs hstate
    split at h
    · cases h
    next hplaced =>
      refine ⟨hopen, (wellPlaced_iff r).mp (by simpa using hplaced), ?_⟩
      split at h
      next g hg => exact ⟨g.index, judgeHandle_admitted hg h⟩
      next hnone =>
        split at h
        · cases h
        next g hcurrent => exact ⟨g.index, judgedAgainst_of_default hlaw hnone hcurrent⟩

/-- What passes the check order is admitted in the rules' own words (R41). -/
theorem admitted_of_judge {s : State} {n : Initiator} {r : Request} {ix : SlotIx} (hlaw : DefaultLaw s)
    (h : s.judge n r = .admitted ix) : ∃ w, Admitted s n r ix w := by
  obtain ⟨hopen, hplaced, i, w, hagainst⟩ := judge_admitted_passed hlaw h
  obtain ⟨hjudge, hocc⟩ := judge_of_judgedAgainst hopen hplaced hagainst
  obtain ⟨rfl, hallows, hcovers⟩ := judgeAgainst_admitted hocc (hjudge ▸ h)
  exact ⟨w, hopen, hplaced, hagainst, hallows, hcovers⟩

/-- The window a request is judged against is LIVE and has the initiator among its holders. -/
theorem JudgedAgainst.live_holder {s : State} {n : Initiator} {r : Request} {ix : SlotIx} {w : Window}
    (h : JudgedAgainst s n r ix w) : s.windows[ix].occ = .live w ∧ w.holders.getLsbD n.val = true := by
  cases h with
  | byHandle _ _ _ _ hlive hholder => exact ⟨hlive.2, hholder⟩
  | byDefault _ _ _ _ hlive hholder => exact ⟨hlive.2, hholder⟩

/-- A refused take enters one REFUSED entry and no other (R42). -/
theorem refuse_tracker (s : State) (n : Initiator) (r : Request) (u : Tag) (kind : EventKind)
    (window : Option SlotIx) :
    (s.refuse n r u kind window).tracker = s.tracker.set u (.refused n r.kind r.len) ∧
      (s.refuse n r u kind window).dnOut = s.dnOut := by
  unfold State.refuse
  dsimp only
  split <;> exact ⟨rfl, rfl⟩

/-- A TAKE takes nothing, or takes some lane's head under a FREE tag (R34, R36). -/
theorem takeOne_cases (s : State) :
    s.takeOne = s ∨ ∃ n u r, s.tracker[u] = .free ∧ s.takeOne = s.takeFrom n u r := by
  unfold State.takeOne
  split
  next n u _ htag =>
    split
    next r _ _ => exact .inr ⟨n, u, r, lowestFreeTag_free htag, rfl⟩
    next => exact .inl rfl
  next => exact .inl rfl

/-! ### DOWNSTREAM_ACCEPT -/

/-- What is offered is the request of the QUEUED entry at the head of the forward order, translated (R103). -/
theorem offered_of_head {s : State} {q : DnRequest} {u : Tag} {rest : List Tag} {x : Txn} {data : List Beat}
    (hoffer : s.offered = some q) (hforward : s.forward = u :: rest) (hentry : s.tracker[u] = .queued x data) :
    q = ⟨u, x.kind, s.translate x, x.len, data⟩ := by
  unfold State.offered at hoffer
  split at hoffer
  next hhead =>
    cases hforward.symm.trans hhead
    simp only [hentry] at hoffer
    cases hoffer
    rfl
  next => cases hoffer

/-- A DOWNSTREAM_ACCEPT sends nothing, or sends a QUEUED entry's request (R103, R104). -/
theorem issue_cases (s : State) :
    s.issue = s ∨ ∃ (u : Tag) (x : Txn) (data : List Beat) (rest : List Tag), s.tracker[u] = .queued x data ∧
      s.issue = { s with
        tracker := s.tracker.set u (.issued x 0 false)
        forward := rest
        dnOut := some ⟨u, x.kind, s.translate x, x.len, data⟩ } := by
  unfold State.issue
  split
  next q u rest hoffer hforward =>
    split
    next x data hentry =>
      rw [offered_of_head hoffer hforward hentry]
      exact .inr ⟨u, x, data, rest, hentry, rfl⟩
    next => exact .inl rfl
  next => exact .inl rfl

/-! ### What a command does with the waiting requests -/

/-- What a command can do with the requests that wait to be sent. -/
inductive WaitingChange (s t : State) : Instr → Prop
  | keeps (c : Instr) : SameWaiting s t → WaitingChange s t c
  | enters (n : Initiator) (u : Tag) (r : Request) (ix : SlotIx) : s.tracker[u] = .free →
      s.judge n r = .admitted ix → t.tracker = s.tracker.set u (.queued ⟨n, ix, r.kind, r.addr, r.len⟩ r.data) →
      t.dnOut = s.dnOut → WaitingChange s t .take
  | sends (u : Tag) (x : Txn) (data : List Beat) (a : Addr) : s.tracker[u] = .queued x data →
      t.tracker = s.tracker.set u (.issued x 0 false) → t.dnOut = some ⟨u, x.kind, a, x.len, data⟩ →
      WaitingChange s t .downstreamAccept
  | drops : t.tracker = s.tracker.map Entry.portReset → t.dnOut = s.dnOut → WaitingChange s t .resetMemoryPort

theorem take_waitingChange (s : State) : WaitingChange s s.takeOne .take := by
  rcases takeOne_cases s with h | ⟨n, u, r, hfree, h⟩ <;> rw [h]
  · exact .keeps _ (.refl s)
  · unfold State.takeFrom
    split
    next ix hjudge => exact .enters n u r ix hfree hjudge rfl rfl
    next kind window _ =>
      obtain ⟨ht, hd⟩ := refuse_tracker (s.leaveLane n) n r u kind window
      exact .keeps _ (.of_set (by rw [hfree]; rfl) rfl ht hd)

theorem issue_waitingChange (s : State) : WaitingChange s s.issue .downstreamAccept := by
  rcases issue_cases s with h | ⟨u, x, data, rest, hentry, h⟩ <;> rw [h]
  · exact .keeps _ (.refl s)
  · exact .sends u x data (s.translate x) hentry rfl rfl

theorem resetMemoryPort_waitingChange {s t : State} (h : execResetMemoryPort s = .next t) :
    WaitingChange s t .resetMemoryPort := by
  unfold execResetMemoryPort at h
  rcases runCommand_cases .resetMemoryPort resetPortBody s with ⟨f, rest, k, -, -, he⟩ | he <;> rw [he] at h <;>
    cases h
  · obtain ⟨ht | ht, hd⟩ := resetPortBody_tracker k f.payload (s.deferred f rest k)
    · exact .keeps _ (.of_eq ht hd)
    · exact .drops ht hd
  · exact .keeps _ (.refl s)

/-- Out of reset, an event of the pins changes the waiting requests as its effect does. -/
theorem waitingChange_of_effect {s t : State} {c : Instr} (effect : State → State) (hr : s.resetn = true)
    (h : whenOutOfReset s effect = .next t) (heffect : WaitingChange s (effect s) c) : WaitingChange s t c := by
  rw [whenOutOfReset_high effect hr] at h
  cases h
  exact heffect

/-- The inversion of a step out of reset: only three commands change which requests wait. -/
theorem StepsTo.waitingChange {c : Instr} {s t : State} (h : StepsTo c s t) : WaitingChange s t c := by
  obtain ⟨hs, h, ht⟩ := h
  cases c with
  | resetnAssert => cases h; cases ht
  | resetnRelease bootEn bootId csLow =>
    cases h
    rw [releaseReset_high bootEn bootId csLow hs]
    exact .keeps _ (.refl s)
  | tick =>
    have hkeeps : SameWaiting s s.settle.tickNow := (settle_sameWaiting s).trans (tickNow_sameWaiting _)
    exact waitingChange_of_effect (·.settle.tickNow) hs h (.keeps _ hkeeps)
  | upstreamRequest n r => exact waitingChange_of_effect _ hs h (.keeps _ (arrive_sameWaiting s n r))
  | take => exact waitingChange_of_effect _ hs h (take_waitingChange s)
  | downstreamAccept => exact waitingChange_of_effect _ hs h (issue_waitingChange s)
  | downstreamResponse u status data =>
    exact waitingChange_of_effect _ hs h (.keeps _ (respond_sameWaiting s u status data))
  | responseTimeout => exact waitingChange_of_effect _ hs h (.keeps _ (expireResponses_sameWaiting s))
  | delivery accepting =>
    exact waitingChange_of_effect (·.deliverOne accepting) hs h (.keeps _ (deliverOne_sameWaiting s accepting))
  | stagedCommit accepting =>
    exact waitingChange_of_effect (fun u => if u.grantCommits accepting then u.deliverOne accepting else u) hs h
      (.keeps _ (.of_ite (deliverOne_sameWaiting s accepting)))
  | drainTimerExpiry => exact waitingChange_of_effect _ hs h (.keeps _ (expireDrains_sameWaiting s))
  | stallTimerExpiry => exact waitingChange_of_effect _ hs h (.keeps _ (expireStalls_sameWaiting s))
  | subtreeFree pos =>
    exact waitingChange_of_effect (·.testDrain pos.val) hs h (.keeps _ (testDrain_sameWaiting s pos.val))
  | holdEnd dnReady =>
    exact waitingChange_of_effect (·.endHold dnReady) hs h (.keeps _ (endHold_sameWaiting s dnReady))
  | portReady =>
    exact waitingChange_of_effect (fun u => if u.port = .awaitingReady then u.becomeReady else u) hs h
      (.keeps _ (.of_ite (.of_eq rfl rfl)))
  | commandFrame edges => cases h; exact .keeps _ (runEdges_sameWaiting _ edges s)
  | fetchSelect => cases h; exact .keeps _ (runEdges_sameWaiting _ s.typeEdges s)
  | fetchEnd edges => cases h; exact .keeps _ (runEdges_sameWaiting _ edges s)
  | derive => exact .keeps _ (runCommand_sameWaiting deriveBody_sameWaiting h)
  | shrink => exact .keeps _ (runCommand_sameWaiting shrinkBody_sameWaiting h)
  | revoke => exact .keeps _ (runCommand_sameWaiting revokeBody_sameWaiting h)
  | bindDefault => exact .keeps _ (runCommand_sameWaiting bindDefaultBody_sameWaiting h)
  | setInitiator => exact .keeps _ (runCommand_sameWaiting setInitiatorBody_sameWaiting h)
  | resetMemoryPort => exact resetMemoryPort_waitingChange h
  | setControl => exact .keeps _ (runCommand_sameWaiting setControlBody_sameWaiting h)
  | readWindow => exact .keeps _ (runCommand_sameWaiting readWindowBody_sameWaiting h)
  | readInitiator => exact .keeps _ (runCommand_sameWaiting readInitiatorBody_sameWaiting h)
  | readEvent => exact .keeps _ (runCommand_sameWaiting readEventBody_sameWaiting h)
  | readStatus => exact .keeps _ (runCommand_sameWaiting readStatusBody_sameWaiting h)

/-! ### The admission law (R47) -/

namespace WaitingChange

variable {c : Instr} {s t : State} {τ : Tag} {x : Txn} {data : List Beat}

/-- An entry becomes QUEUED only by the take of an admitted request (R41, R47). -/
theorem admitted (h : WaitingChange s t c) (hlaw : DefaultLaw s) (hs : s.tracker[τ].isQueued = false)
    (ht : t.tracker[τ] = .queued x data) :
    c = .take ∧ ∃ r w, x = ⟨x.initiator, x.window, r.kind, r.addr, r.len⟩ ∧ Admitted s x.initiator r x.window w := by
  cases h with
  | keeps _ h =>
    rw [h.queued_iff.mp ht] at hs
    cases hs
  | enters n u r ix _ hjudge htracker _ =>
    rw [htracker, entry_set] at ht
    split at ht
    · cases ht
      exact ⟨rfl, r, (admitted_of_judge hlaw hjudge).imp fun _ hw => ⟨rfl, hw⟩⟩
    · rw [ht] at hs
      cases hs
  | sends u _ _ _ _ htracker _ =>
    rw [htracker, entry_set] at ht
    split at ht
    · cases ht
    · rw [ht] at hs
      cases hs
  | drops htracker _ =>
    have hnone := s.tracker[τ].waiting_portReset
    rw [show t.tracker[τ] = s.tracker[τ].portReset by simp [htracker]] at ht
    rw [ht] at hnone
    cases hnone

/-- A QUEUED entry keeps its request until it is sent or a port reset resolves it (R104, R113). -/
theorem kept (h : WaitingChange s t c) (hs : s.tracker[τ] = .queued x data) :
    t.tracker[τ] = .queued x data ∨ t.tracker[τ] = .issued x 0 false ∨ t.tracker[τ] = .done x .portReset := by
  cases h with
  | keeps _ h => exact .inl (h.queued_iff.mpr hs)
  | enters n u r ix hfree _ htracker _ =>
    have hne : τ ≠ u := by
      rintro rfl
      rw [hfree] at hs
      cases hs
    rw [htracker, entry_set, if_neg hne]
    exact .inl hs
  | sends u _ _ _ hentry htracker _ =>
    rw [htracker, entry_set]
    split
    next hu =>
      rw [hu, hentry] at hs
      cases hs
      exact .inr (.inl rfl)
    next => exact .inl hs
  | drops htracker _ =>
    rw [show t.tracker[τ] = s.tracker[τ].portReset by simp [htracker], hs]
    exact .inr (.inr rfl)

/-- What is sent downstream is a QUEUED entry's request, and the entry becomes ISSUED (R103, R104). -/
theorem sent_queued (h : WaitingChange s t c) (hsent : t.dnOut ≠ s.dnOut) :
    c = .downstreamAccept ∧ ∃ q x, t.dnOut = some q ∧ s.tracker[q.tag] = .queued x q.data ∧
      q.kind = x.kind ∧ q.len = x.len ∧ t.tracker[q.tag] = .issued x 0 false := by
  cases h with
  | keeps _ h => exact absurd h.sent hsent
  | enters _ _ _ _ _ _ _ h => exact absurd h hsent
  | drops _ h => exact absurd h hsent
  | sends u x data a hentry htracker h =>
    exact ⟨rfl, _, x, h, hentry, rfl, rfl, by rw [htracker, entry_set, if_pos rfl]⟩

end WaitingChange

/-- Settles O26: the inversion of a step gives each of the three parts. -/
theorem forwardedOnlyIfAdmittedAtTake : Obligations.ForwardedOnlyIfAdmittedAtTake := by
  unfold Obligations.ForwardedOnlyIfAdmittedAtTake
  refine ⟨fun c s t τ x data hstep hlaw hs ht => ?_, fun _ _ _ _ _ _ hstep => hstep.waitingChange.kept,
    fun _ _ _ hstep => hstep.waitingChange.sent_queued⟩
  obtain ⟨hc, r, w, hx, hadm⟩ := hstep.waitingChange.admitted hlaw hs ht
  obtain ⟨hlive, hholder⟩ := hadm.against.live_holder
  refine ⟨hc, hadm.opened, w, hlive, hholder, ?_⟩
  rw [hx]
  exact ⟨hadm.allows, hadm.covers⟩

end Sys2Proof.Machine
end

