-- ==== Sys2Proof/Proofs/Defaults.lean ====
section
/-! SUPPORT. What each command does with the current defaults: a BIND_DEFAULT that passes may commit at once, a
delivery may commit a staged binding, an accepted REVOKE clears the defaults in its subtree, and every other
command leaves them as they are. -/

namespace Sys2Proof.Machine

/-! ### States with the same current defaults -/

/-- No initiator's current default differs. -/
def SameDefaults (s t : State) : Prop :=
  ∀ n : Initiator, t.contexts[n].current = s.contexts[n].current

namespace SameDefaults

theorem of_eq {s t : State} (h : t.contexts = s.contexts) : SameDefaults s t :=
  fun n => by rw [h]

theorem refl (s : State) : SameDefaults s s :=
  of_eq rfl

theorem trans {s t u : State} (h₁ : SameDefaults s t) (h₂ : SameDefaults t u) : SameDefaults s u :=
  fun n => (h₂ n).trans (h₁ n)

theorem of_ite {s t : State} {p : Prop} [Decidable p] (h : SameDefaults s t) :
    SameDefaults s (if p then t else s) := by
  split
  · exact h
  · exact refl s

/-- Every context is changed in other fields. -/
theorem of_map {s t : State} {f : Context → Context} (h : t.contexts = s.contexts.map f)
    (hf : ∀ c : Context, (f c).current = c.current) : SameDefaults s t :=
  fun n => by simp [h, hf]

/-- One context is changed in other fields. -/
theorem of_updAt {s t : State} {m : Initiator} {f : Context → Context} (h : t.contexts = updAt s.contexts m f)
    (hf : ∀ c : Context, (f c).current = c.current) : SameDefaults s t := by
  intro n
  rw [h, updAt_get]
  split
  next hn => rw [hf, hn]
  next => rfl

theorem updContext {s t : State} {m : Initiator} {f : Context → Context} (h : SameDefaults s t)
    (hf : ∀ c : Context, (f c).current = c.current) : SameDefaults s (t.updContext m f) :=
  h.trans (of_updAt rfl hf)

theorem logAll {s t : State} {es : List Event} (h : SameDefaults s t) : SameDefaults s (t.logAll es) :=
  h.trans (of_eq rfl)

theorem fillAll {s t : State} {fs : List Fill} (h : SameDefaults s t) : SameDefaults s (t.fillAll fs) :=
  h.trans (of_eq rfl)

theorem answer {s t : State} {k : RespIx} {o : CmdOutcome} {p : List Byte} (h : SameDefaults s t) :
    SameDefaults s (t.answer k o p) :=
  h.fillAll

end SameDefaults

/-! ### Time and timers -/

theorem endHold_contexts (s : State) (dnReady : Bool) : (s.endHold dnReady).contexts = s.contexts := by
  unfold State.endHold
  split
  · split
    · cases dnReady <;> rfl
    · rfl
  · rfl

theorem expireDrains_sameDefaults (s : State) : SameDefaults s s.expireDrains :=
  .of_map rfl fun _ => rfl

theorem tickNow_sameDefaults (s : State) : SameDefaults s s.tickNow :=
  .of_map rfl fun _ => rfl

theorem settle_sameDefaults (s : State) : SameDefaults s s.settle := by
  have hold : SameDefaults s (s.endHold false).expireResponses := .of_eq (endHold_contexts s false)
  exact hold.trans (expireDrains_sameDefaults _)

/-! ### Requests, responses and the drain test -/

theorem arrive_contexts (s : State) (n : Initiator) (r : Request) : (s.arrive n r).contexts = s.contexts := by
  unfold State.arrive
  split <;> rfl

theorem enter_contexts (s : State) (n : Initiator) (u : Tag) (e : Entry) :
    (s.enter n u e).contexts = updAt s.contexts n fun c => { c with undelivered := c.undelivered + 1 } :=
  rfl

theorem enter_sameDefaults (s : State) (n : Initiator) (u : Tag) (e : Entry) : SameDefaults s (s.enter n u e) :=
  .of_updAt (enter_contexts s n u e) fun _ => rfl

theorem enterAdmitted_sameDefaults (s : State) (n : Initiator) (r : Request) (u : Tag) (ix : SlotIx) :
    SameDefaults s (s.enterAdmitted n r u ix) :=
  enter_sameDefaults s n u (.queued ⟨n, ix, r.kind, r.addr, r.len⟩ r.data)

/-- A refused take changes its initiator's count and, under QUARANTINE, its state (R42, R44). -/
theorem refuse_sameDefaults (s : State) (n : Initiator) (r : Request) (u : Tag) (kind : EventKind)
    (window : Option SlotIx) : SameDefaults s (s.refuse n r u kind window) := by
  have henter := enter_sameDefaults s n u (.refused n r.kind r.len)
  unfold State.refuse
  dsimp only
  split
  · exact .logAll (.updContext henter fun _ => rfl)
  · exact henter.logAll

theorem takeOne_sameDefaults (s : State) : SameDefaults s s.takeOne := by
  rcases takeOne_cases s with h | ⟨n, u, r, -, h⟩ <;> rw [h]
  · exact .refl s
  · unfold State.takeFrom
    split
    next ix _ => exact enterAdmitted_sameDefaults (s.leaveLane n) n r u ix
    next kind window _ => exact refuse_sameDefaults (s.leaveLane n) n r u kind window

theorem issue_contexts (s : State) : s.issue.contexts = s.contexts := by
  rcases issue_cases s with h | ⟨u, x, data, rest, -, h⟩ <;> rw [h]

theorem timely_contexts (s : State) (u : Tag) (x : Txn) (status : DnStatus) (data : List Beat) :
    (s.timely u x status data).contexts = s.contexts := by
  unfold State.timely
  dsimp only
  split <;> split <;> rfl

theorem respond_contexts (s : State) (u : Tag) (status : DnStatus) (data : List Beat) :
    (s.respond u status data).contexts = s.contexts := by
  unfold State.respond
  split
  · split
    · exact timely_contexts s u _ status data
    · rfl
    · rfl
    · rfl
  · rfl

theorem testDrain_contexts (s : State) (pos : Nat) : (s.testDrain pos).contexts = s.contexts := by
  unfold State.testDrain
  split
  · split
    · exact s.freeSubtree_contexts _ _
    · rfl
  · rfl

/-! ### The link -/

/-- No edge on the link's wires touches a context. -/
theorem spiEdge_contexts (s : State) (e : SpiEdge) : (s.spiEdge e).contexts = s.contexts := by
  cases hr : s.resetn with
  | false =>
    obtain ⟨session, bits, -, h, -⟩ := spiEdge_low e hr
    rw [h]
  | true =>
    rcases spiEdge_cases e hr with h | ⟨-, -, h⟩ | ⟨mosi, a, -, -, -, h⟩ | ⟨a, -, -, -, h⟩ | ⟨a, -, -, h⟩ <;>
      rw [h]
    · rfl
    · rfl
    · unfold State.sclkFalls
      split <;> rfl
    · unfold State.csRises
      dsimp only
      split <;> rfl

theorem runEdges_contexts (own : State → SpiEdge → Bool) (edges : List SpiEdge) (s : State) :
    (runEdges own edges s).contexts = s.contexts := by
  have keeps : ∀ u e, u.contexts = s.contexts → own u e = true → (u.spiEdge e).contexts = s.contexts :=
    fun u e h _ => (spiEdge_contexts u e).trans h
  exact runEdges_keeps keeps edges s rfl

/-! ### Commands of the table controller that leave the defaults -/

/-- A command whose execution leaves the defaults leaves them when it is taken, too. -/
theorem runCommand_sameDefaults {code : CommandCode} {body : RespIx → List Byte → State → State} {s t : State}
    (hbody : ∀ k p u, SameDefaults u (body k p u)) (h : runCommand code body s = .next t) : SameDefaults s t := by
  rcases runCommand_cases code body s with ⟨f, rest, k, -, -, he⟩ | he <;> rw [he] at h <;> cases h
  · exact hbody k f.payload (s.deferred f rest k)
  · exact .refl s

theorem deriveBody_sameDefaults (k : RespIx) (p : List Byte) (s : State) : SameDefaults s (deriveBody k p s) := by
  unfold deriveBody
  split
  · exact .of_eq rfl
  · split <;> exact .of_eq rfl

theorem shrinkBody_sameDefaults (k : RespIx) (p : List Byte) (s : State) : SameDefaults s (shrinkBody k p s) := by
  unfold shrinkBody
  split
  · exact .of_eq rfl
  · split <;> exact .of_eq rfl

/-- SET_INITIATOR writes state and policy alone (R58). -/
theorem setInitiatorBody_sameDefaults (k : RespIx) (p : List Byte) (s : State) :
    SameDefaults s (setInitiatorBody k p s) := by
  unfold setInitiatorBody
  split
  · exact .of_eq rfl
  · split
    · exact .answer (.updContext (.refl s) fun _ => rfl)
    · exact .of_eq rfl

theorem resetPortBody_contexts (k : RespIx) (p : List Byte) (s : State) :
    (resetPortBody k p s).contexts = s.contexts := by
  unfold resetPortBody
  dsimp only
  split
  · exact s.startReset_contexts
  · rfl

theorem setControlBody_sameDefaults (k : RespIx) (p : List Byte) (s : State) :
    SameDefaults s (setControlBody k p s) := by
  unfold setControlBody
  split <;> exact .of_eq rfl

theorem readWindowBody_sameDefaults (k : RespIx) (p : List Byte) (s : State) :
    SameDefaults s (readWindowBody k p s) := by
  unfold readWindowBody
  split <;> exact .of_eq rfl

theorem readInitiatorBody_sameDefaults (k : RespIx) (p : List Byte) (s : State) :
    SameDefaults s (readInitiatorBody k p s) := by
  unfold readInitiatorBody
  split <;> exact .of_eq rfl

theorem readEventBody_sameDefaults (k : RespIx) (p : List Byte) (s : State) :
    SameDefaults s (readEventBody k p s) := by
  unfold readEventBody
  split <;> exact .of_eq rfl

theorem readStatusBody_sameDefaults (k : RespIx) (p : List Byte) (s : State) :
    SameDefaults s (readStatusBody k p s) :=
  .of_eq rfl

/-! ### What a command does with a current default -/

/-- What a command can do with the current default of `n` (R74). -/
inductive DefaultChange (s t : State) (n : Initiator) : Instr → Prop
  | keeps (c : Instr) : t.contexts[n].current = s.contexts[n].current → DefaultChange s t n c
  | binds (f : Frame) (rest : List Frame) (k : RespIx) (target : Option Handle) : Takes s f rest k →
      f.code = .bindDefault → initiatorAt f.payload 0 = some n → BindPasses s n (bindingOf f.payload) target →
      s.contexts[n].undelivered = 0 → s.contexts[n].rebind = .none →
      t.contexts[n] = { s.contexts[n] with current := target } → DefaultChange s t n .bindDefault
  | commits (c : Instr) (p : Pending) : (∃ a, c = .delivery a ∨ c = .stagedCommit a) →
      s.contexts[n].rebind.pending? = some p →
      t.contexts[n] = { s.contexts[n] with current := p.target, rebind := .none, undelivered := 0 } →
      DefaultChange s t n c
  | clears (f : Frame) (rest : List Frame) (k : RespIx) (h g : Handle) (e : RevEntry) : Takes s f rest k →
      f.code = .revoke → handleAt f.payload 0 = some g → s.contexts[n].current = some h →
      (subtreeOf s.windows g.index).getLsbD h.index.val = true → t.contexts[n].current = none →
      t.revocations.getLast? = some e → e.root = g → e.own = k → DefaultChange s t n .revoke

/-! ### DELIVERY and STAGED_COMMIT -/

theorem Rebind.pending_none {r : Rebind} : r.pending? = Option.none ↔ r = .none := by
  cases r <;> simp [Rebind.pending?]

/-- A binding is due for commit exactly when it is pending with nothing undelivered (R66). -/
theorem commitDue_some {s : State} {n : Initiator} {p : Pending} :
    s.commitDue n = some p ↔ s.contexts[n].undelivered = 0 ∧ s.contexts[n].rebind.pending? = some p := by
  simp [State.commitDue]

theorem handUp_contexts (s : State) (n : Initiator) (u : Tag) :
    (s.handUp n u).contexts = updAt s.contexts n fun c => { c with undelivered := c.undelivered - 1 } :=
  rfl

theorem commit_contexts (s : State) (n : Initiator) (p : Pending) :
    (s.commit n p).contexts = updAt s.contexts n fun c => { c with current := p.target, rebind := .none } :=
  rfl

theorem handUp_sameDefaults (s : State) (n : Initiator) (u : Tag) : SameDefaults s (s.handUp n u) :=
  .of_updAt (handUp_contexts s n u) fun _ => rfl

/-- A delivery keeps every default, or commits the pending binding of the initiator it goes to (R66, R92). -/
theorem deliverHead_defaultChange (s : State) (m n : Initiator) (u : Tag) {c : Instr}
    (hc : ∃ a, c = .delivery a ∨ c = .stagedCommit a) : DefaultChange s (s.deliverHead m u) n c := by
  have hup := handUp_sameDefaults s m u n
  unfold State.deliverHead
  dsimp only
  split
  next p hdue =>
    obtain ⟨hzero, hpending⟩ := commitDue_some.mp hdue
    by_cases hn : n = m
    · subst hn
      rw [handUp_contexts, updAt_self] at hzero hpending
      refine .commits c p hc hpending ?_
      rw [commit_contexts, handUp_contexts, updAt_self, updAt_self]
      dsimp only at hzero ⊢
      rw [hzero]
    · refine .keeps c ?_
      rw [commit_contexts, updAt_other _ _ _ _ hn, hup]
  next => exact .keeps c hup

theorem deliverOne_cases (s : State) (accepting : BitVec 8) :
    s.deliverOne accepting = s ∨ ∃ m u, s.deliverOne accepting = s.deliverHead m u := by
  unfold State.deliverOne
  split
  next m _ =>
    split
    next u _ _ => exact .inr ⟨m, u, rfl⟩
    next => exact .inl rfl
  next => exact .inl rfl

theorem deliverOne_defaultChange (s : State) (n : Initiator) (accepting : BitVec 8) {c : Instr}
    (hc : ∃ a, c = .delivery a ∨ c = .stagedCommit a) : DefaultChange s (s.deliverOne accepting) n c := by
  rcases deliverOne_cases s accepting with h | ⟨m, u, h⟩ <;> rw [h]
  · exact .keeps c rfl
  · exact deliverHead_defaultChange s m n u hc

/-! ### BIND_DEFAULT -/

/-- What passes the checks passes the table of section 3.6. -/
theorem bindPasses_of_checks {s : State} {n : Initiator} {b : Binding} {target : Option Handle}
    (h : bindChecks s n b = .ok target) : BindPasses s n b target := by
  unfold bindChecks at h
  split at h
  · cases h
    exact .clear
  · cases h
  next g =>
    split at h
    · cases h
    next hvalid =>
      have hgen : s.windows[g.index].gen = g.gen := (validHandle_iff.mp (by simpa using hvalid)).2
      split at h
      · cases h
      · cases h
      next w hocc =>
        split at h
        next hholder =>
          cases h
          exact .handle g w ⟨hgen, hocc⟩ hholder
        next => cases h

/-- Checking a binding does not look at the queue or the response slots. -/
theorem bindChecks_deferred (s : State) (f : Frame) (rest : List Frame) (k : RespIx) (n : Initiator) (b : Binding) :
    bindChecks (s.deferred f rest k) n b = bindChecks s n b :=
  rfl

theorem stage_sameDefaults (s : State) (n : Initiator) (k : RespIx) (target : Option Handle) :
    SameDefaults s (s.stage n k target) := by
  unfold State.stage
  dsimp only
  split
  · exact .logAll (.updContext (.refl s) fun _ => rfl)
  · exact .updContext (.refl s) fun _ => rfl

theorem replaceBinding_sameDefaults (s : State) (n : Initiator) (k : RespIx) (target : Option Handle)
    (old : Pending) : SameDefaults s (s.replaceBinding n k target old) := by
  unfold State.replaceBinding
  exact .fillAll (.updContext (.refl s) fun _ => rfl)

/-- A binding that passed is replaced or staged, or commits at once with nothing pending or undelivered (R63 to
R65). -/
theorem bind_cases (s : State) (m : Initiator) (k : RespIx) (target : Option Handle) :
    SameDefaults s (s.bind m k target) ∨
      (s.contexts[m].rebind = .none ∧ s.contexts[m].undelivered = 0 ∧
        (s.bind m k target).contexts = updAt s.contexts m fun c => { c with current := target }) := by
  unfold State.bind
  split
  next old _ => exact .inl (replaceBinding_sameDefaults s m k target old)
  next hnone =>
    split
    next hzero => exact .inr ⟨Rebind.pending_none.mp hnone, hzero, rfl⟩
    next => exact .inl (stage_sameDefaults s m k target)

theorem bindDefault_defaultChange {s t : State} (n : Initiator) (h : execBindDefault s = .next t) :
    DefaultChange s t n .bindDefault := by
  unfold execBindDefault at h
  rcases runCommand_cases .bindDefault bindDefaultBody s with ⟨f, rest, k, htakes, hcode, he⟩ | he <;>
    rw [he] at h <;> cases h
  · unfold bindDefaultBody
    split
    next => exact .keeps _ rfl
    next m hm =>
      split
      next => exact .keeps _ rfl
      next target hchecks =>
        rw [bindChecks_deferred] at hchecks
        rcases bind_cases (s.deferred f rest k) m k target with hsame | ⟨hnone, hzero, hcontexts⟩
        · exact .keeps _ (hsame n)
        · by_cases hn : n = m
          · subst hn
            refine .binds f rest k target htakes hcode hm (bindPasses_of_checks hchecks) hzero hnone ?_
            rw [hcontexts, updAt_self]
            rfl
          · refine .keeps _ ?_
            rw [hcontexts, updAt_other _ _ _ _ hn]
            rfl
  · exact .keeps _ rfl

/-! ### REVOKE -/

theorem acceptRevoke_contexts (s : State) (root : Handle) (k : RespIx) :
    (s.acceptRevoke root k).contexts = s.contexts.map (Context.afterRevoke (subtreeOf s.windows root.index)) :=
  rfl

theorem acceptRevoke_revocations (s : State) (root : Handle) (k : RespIx) :
    (s.acceptRevoke root k).revocations =
      acceptInto s.revocations (subtreeOf s.windows root.index) root k :=
  rfl

/-- An acceptance puts its own entry at the tail of the revocation list (R143). -/
theorem acceptInto_getLast (revs : List RevEntry) (m : BitVec 64) (root : Handle) (k : RespIx) :
    ∃ e, (acceptInto revs m root k).getLast? = some e ∧ e.root = root ∧ e.own = k :=
  ⟨_, List.getLast?_concat, rfl, rfl⟩

theorem inSet_iff {m : BitVec 64} {d : Option Handle} :
    inSet m d = true ↔ ∃ h, d = some h ∧ m.getLsbD h.index.val = true := by
  cases d <;> simp [inSet]

/-- An acceptance keeps a current default, or clears one that names a window of the subtree (R72). -/
theorem afterRevoke_current (m : BitVec 64) (c : Context) :
    (c.afterRevoke m).current = c.current ∨
      (c.afterRevoke m).current = none ∧ ∃ h, c.current = some h ∧ m.getLsbD h.index.val = true := by
  cases hin : inSet m c.current with
  | false => exact .inl (by simp [Context.afterRevoke, hin])
  | true => exact .inr ⟨by simp [Context.afterRevoke, hin], inSet_iff.mp hin⟩

/-- What REVOKE's checks pass is the handle the payload names. -/
theorem revokeChecks_ok {s : State} {arg : Option Handle} {g : Handle} (h : revokeChecks s arg = .ok g) :
    arg = some g := by
  cases arg with
  | none => cases h
  | some g' =>
    simp only [revokeChecks] at h
    split_ifs at h
    cases h
    rfl

theorem revoke_defaultChange {s t : State} (n : Initiator) (h : execRevoke s = .next t) :
    DefaultChange s t n .revoke := by
  unfold execRevoke at h
  rcases runCommand_cases .revoke revokeBody s with ⟨f, rest, k, htakes, hcode, he⟩ | he <;>
    rw [he] at h <;> cases h
  · unfold revokeBody
    split
    next => exact .keeps _ rfl
    next g hchecks =>
      obtain ⟨e, hlast, hroot, hown⟩ := acceptInto_getLast s.revocations (subtreeOf s.windows g.index) g k
      have hcurrent : ((s.deferred f rest k).acceptRevoke g k).contexts[n].current =
          (s.contexts[n].afterRevoke (subtreeOf s.windows g.index)).current := by
        rw [acceptRevoke_contexts]
        simp [State.deferred]
      rcases afterRevoke_current (subtreeOf s.windows g.index) s.contexts[n] with hsame | ⟨hclear, d, hd, hin⟩
      · exact .keeps _ (hcurrent.trans hsame)
      · exact .clears f rest k d g e htakes hcode (revokeChecks_ok hchecks) hd hin (hcurrent.trans hclear)
          hlast hroot hown
  · exact .keeps _ rfl

/-! ### Every command -/

/-- Out of reset, an event of the pins changes a default as its effect does. -/
theorem defaultChange_of_effect {s t : State} {n : Initiator} {c : Instr} (effect : State → State)
    (hr : s.resetn = true) (h : whenOutOfReset s effect = .next t) (heffect : DefaultChange s (effect s) n c) :
    DefaultChange s t n c := by
  rw [whenOutOfReset_high effect hr] at h
  cases h
  exact heffect

/-- The inversion of a step out of reset: only four commands change a current default. -/
theorem StepsTo.defaultChange {c : Instr} {s t : State} (h : StepsTo c s t) (n : Initiator) :
    DefaultChange s t n c := by
  obtain ⟨hs, h, ht⟩ := h
  have keeps_effect {c : Instr} (effect : State → State) (he : whenOutOfReset s effect = .next t)
      (hsame : SameDefaults s (effect s)) : DefaultChange s t n c :=
    defaultChange_of_effect effect hs he (.keeps c (hsame n))
  cases c with
  | resetnAssert => cases h; cases ht
  | resetnRelease bootEn bootId csLow =>
    cases h
    rw [releaseReset_high bootEn bootId csLow hs]
    exact .keeps _ rfl
  | tick => exact keeps_effect (·.settle.tickNow) h ((settle_sameDefaults s).trans (tickNow_sameDefaults _))
  | upstreamRequest m r => exact keeps_effect (·.arrive m r) h (.of_eq (arrive_contexts s m r))
  | take => exact keeps_effect _ h (takeOne_sameDefaults s)
  | downstreamAccept => exact keeps_effect _ h (.of_eq (issue_contexts s))
  | downstreamResponse u status data =>
    exact keeps_effect (·.respond u status data) h (.of_eq (respond_contexts s u status data))
  | responseTimeout => exact keeps_effect State.expireResponses h (.of_eq rfl)
  | delivery accepting =>
    exact defaultChange_of_effect (·.deliverOne accepting) hs h
      (deliverOne_defaultChange s n accepting ⟨accepting, .inl rfl⟩)
  | stagedCommit accepting =>
    refine defaultChange_of_effect (fun u => if u.grantCommits accepting then u.deliverOne accepting else u) hs h ?_
    split
    · exact deliverOne_defaultChange s n accepting ⟨accepting, .inr rfl⟩
    · exact .keeps _ rfl
  | drainTimerExpiry => exact keeps_effect _ h (expireDrains_sameDefaults s)
  | stallTimerExpiry => exact keeps_effect State.expireStalls h (.of_eq rfl)
  | subtreeFree pos => exact keeps_effect (·.testDrain pos.val) h (.of_eq (testDrain_contexts s pos.val))
  | holdEnd dnReady => exact keeps_effect (·.endHold dnReady) h (.of_eq (endHold_contexts s dnReady))
  | portReady =>
    exact keeps_effect (fun u => if u.port = .awaitingReady then u.becomeReady else u) h (.of_ite (.of_eq rfl))
  | commandFrame edges => cases h; exact .keeps _ (SameDefaults.of_eq (runEdges_contexts _ edges s) n)
  | fetchSelect => cases h; exact .keeps _ (SameDefaults.of_eq (runEdges_contexts _ s.typeEdges s) n)
  | fetchEnd edges => cases h; exact .keeps _ (SameDefaults.of_eq (runEdges_contexts _ edges s) n)
  | derive => exact .keeps _ (runCommand_sameDefaults deriveBody_sameDefaults h n)
  | shrink => exact .keeps _ (runCommand_sameDefaults shrinkBody_sameDefaults h n)
  | revoke => exact revoke_defaultChange n h
  | bindDefault => exact bindDefault_defaultChange n h
  | setInitiator => exact .keeps _ (runCommand_sameDefaults setInitiatorBody_sameDefaults h n)
  | resetMemoryPort => exact .keeps _ (runCommand_sameDefaults (fun k p u => .of_eq (resetPortBody_contexts k p u)) h n)
  | setControl => exact .keeps _ (runCommand_sameDefaults setControlBody_sameDefaults h n)
  | readWindow => exact .keeps _ (runCommand_sameDefaults readWindowBody_sameDefaults h n)
  | readInitiator => exact .keeps _ (runCommand_sameDefaults readInitiatorBody_sameDefaults h n)
  | readEvent => exact .keeps _ (runCommand_sameDefaults readEventBody_sameDefaults h n)
  | readStatus => exact .keeps _ (runCommand_sameDefaults readStatusBody_sameDefaults h n)

/-- Settles O54: of the four things a step can do with a default, three change it, as R74 names them. -/
theorem currentDefaultChangesOnlyAtCommitOrRevoke : Obligations.CurrentDefaultChangesOnlyAtCommitOrRevoke := by
  unfold Obligations.CurrentDefaultChangesOnlyAtCommitOrRevoke
  intro c s t n hstep hchanged
  cases hstep.defaultChange n with
  | keeps _ hsame => exact absurd hsame hchanged
  | binds f rest k target htakes hcode hinit hpasses hzero hnone ht =>
    refine .inl ⟨rfl, hzero, ?_, hnone, ?_, f, rest, k, target, htakes, hcode, hinit, hpasses, ?_⟩ <;> rw [ht]
    · exact hzero
    · exact hnone
  | commits _ p hc hpending ht =>
    refine .inr (.inl ⟨hc, ?_, ?_, p, hpending, ?_⟩) <;> rw [ht]
  | clears f rest k h g e htakes hcode hg hcurrent hin hnone hlast hroot hown =>
    exact .inr (.inr ⟨rfl, hnone, f, rest, k, h, g, e, htakes, hcode, hg, hcurrent, hin, hlast, hroot, hown⟩)

end Sys2Proof.Machine
end

