-- ==== Sys2Proof/Proofs/Freeing.lean ====
section
/-! SUPPORT. Which commands let a REVOKING window become FREE: a SUBTREE_FREE whose drain test passes frees the
windows its list entry covers, and every other command leaves each REVOKING window REVOKING. -/

namespace Sys2Proof.Machine

/-! ### REVOKING slots -/

theorem isRevoking_iff {v : WindowSlot} : v.isRevoking = true ↔ ∃ w c, v.occ = .revoking w c := by
  cases h : v.occ <;> simp [WindowSlot.isRevoking, h]

theorem coveredBy_iff {v : WindowSlot} {root : SlotIx} : v.coveredBy root = true ↔ ∃ w, v.occ = .revoking w root := by
  cases h : v.occ <;> simp [WindowSlot.coveredBy, h]

theorem not_isFree_of_isRevoking {v : WindowSlot} (h : v.isRevoking = true) : v.isFree = false := by
  obtain ⟨w, c, hocc⟩ := isRevoking_iff.mp h
  simp [WindowSlot.isFree, hocc]

theorem children_of_revoking {v : WindowSlot} {w : Window} {c : SlotIx} (h : v.occ = .revoking w c) :
    v.children = w.children := by
  simp [WindowSlot.children, Occupancy.window?, h]

/-- Changing the window a slot holds does not change the slot's state. -/
@[simp] theorem isRevoking_mapWindow (f : Window → Window) (v : WindowSlot) :
    (v.mapWindow f).isRevoking = v.isRevoking := by
  cases h : v.occ <;> simp [WindowSlot.mapWindow, WindowSlot.isRevoking, h]

/-- An acceptance leaves a REVOKING slot REVOKING, under its old covering revocation or the new one (R140). -/
theorem isRevoking_markSlot {m : BitVec 64} {root i : SlotIx} {v : WindowSlot} (h : v.isRevoking = true) :
    (markSlot m root i v).isRevoking = true := by
  obtain ⟨w, c, hocc⟩ := isRevoking_iff.mp h
  unfold markSlot
  split
  · simp [hocc, WindowSlot.isRevoking]
  · exact h

/-- A free of the entry with root `root` frees, of the REVOKING slots, those the entry covers (R146). -/
theorem freedSlot_free {t : Vector WindowSlot 64} {root i : SlotIx} (hrev : t[i].isRevoking = true)
    (hfree : (freedSlot t root i).isFree = true) : t[i].coveredBy root = true := by
  by_contra hcovered
  have hkept : (freedSlot t root i).isRevoking = true := by
    unfold freedSlot
    rw [if_neg hcovered]
    split
    · rw [isRevoking_mapWindow, hrev]
    · exact hrev
  rw [not_isFree_of_isRevoking hkept] at hfree
  cases hfree

/-! ### States with every REVOKING window still REVOKING -/

/-- Every REVOKING window of the first state is REVOKING in the second. -/
def KeepsRevoking (s t : State) : Prop :=
  ∀ i : SlotIx, s.windows[i].isRevoking = true → t.windows[i].isRevoking = true

namespace KeepsRevoking

theorem of_eq {s t : State} (h : t.windows = s.windows) : KeepsRevoking s t :=
  fun i hi => by rw [h, hi]

theorem refl (s : State) : KeepsRevoking s s :=
  of_eq rfl

theorem trans {s t u : State} (h₁ : KeepsRevoking s t) (h₂ : KeepsRevoking t u) : KeepsRevoking s u :=
  fun i hi => h₂ i (h₁ i hi)

theorem of_ite {s t : State} {p : Prop} [Decidable p] (h : KeepsRevoking s t) :
    KeepsRevoking s (if p then t else s) := by
  split
  · exact h
  · exact refl s

/-- One slot's window is changed, and the slot's state is not. -/
theorem of_mapWindow {s t : State} {ix : SlotIx} {f : Window → Window}
    (h : t.windows = updAt s.windows ix (WindowSlot.mapWindow f)) : KeepsRevoking s t := by
  intro i hi
  rw [h, updAt_get]
  split
  next hix => rw [isRevoking_mapWindow, ← hix, hi]
  next => exact hi

end KeepsRevoking

/-! ### Time and timers -/

theorem endHold_windows (s : State) (dnReady : Bool) : (s.endHold dnReady).windows = s.windows := by
  unfold State.endHold
  split
  · split
    · cases dnReady <;> rfl
    · rfl
  · rfl

theorem settle_windows (s : State) : s.settle.windows = s.windows := by
  have hexpiries : s.settle.windows = (s.endHold false).windows := rfl
  rw [hexpiries, endHold_windows]

/-! ### Requests, responses and deliveries -/

theorem arrive_windows (s : State) (n : Initiator) (r : Request) : (s.arrive n r).windows = s.windows := by
  unfold State.arrive
  split <;> rfl

theorem refuse_windows (s : State) (n : Initiator) (r : Request) (u : Tag) (kind : EventKind)
    (window : Option SlotIx) : (s.refuse n r u kind window).windows = s.windows := by
  unfold State.refuse
  dsimp only
  split <;> rfl

/-- A take raises the in-flight count of at most one window (R20). -/
theorem takeOne_keepsRevoking (s : State) : KeepsRevoking s s.takeOne := by
  rcases takeOne_cases s with h | ⟨n, u, r, -, h⟩ <;> rw [h]
  · exact .refl s
  · unfold State.takeFrom
    split
    next ix _ => exact .of_mapWindow (ix := ix) (f := addInFlight) rfl
    next kind window _ => exact .of_eq (refuse_windows (s.leaveLane n) n r u kind window)

theorem issue_windows (s : State) : s.issue.windows = s.windows := by
  rcases issue_cases s with h | ⟨u, x, data, rest, -, h⟩ <;> rw [h]

theorem timely_windows (s : State) (u : Tag) (x : Txn) (status : DnStatus) (data : List Beat) :
    (s.timely u x status data).windows = updAt s.windows x.window (WindowSlot.mapWindow (subInFlight 1)) := by
  unfold State.timely
  dsimp only
  split <;> split <;> rfl

theorem late_windows (s : State) (u : Tag) (x : Txn) (after : Entry) :
    (s.late u x after).windows = updAt s.windows x.window (WindowSlot.mapWindow (subInFlight 1)) :=
  rfl

/-- A response lowers the in-flight count of at most one window (R21). -/
theorem respond_keepsRevoking (s : State) (u : Tag) (status : DnStatus) (data : List Beat) :
    KeepsRevoking s (s.respond u status data) := by
  unfold State.respond
  split
  · split
    next x _ _ _ => exact .of_mapWindow (timely_windows s u x status data)
    next x _ => exact .of_mapWindow (late_windows s u x _)
    next x _ => exact .of_mapWindow (late_windows s u x _)
    next => exact .of_eq rfl
  · exact .refl s

theorem deliverHead_windows (s : State) (n : Initiator) (u : Tag) : (s.deliverHead n u).windows = s.windows := by
  unfold State.deliverHead
  dsimp only
  split <;> rfl

theorem deliverOne_windows (s : State) (accepting : BitVec 8) : (s.deliverOne accepting).windows = s.windows := by
  rcases deliverOne_cases s accepting with h | ⟨m, u, h⟩ <;> rw [h]
  exact deliverHead_windows s m u

/-! ### The link -/

/-- No edge on the link's wires touches the window table. -/
theorem spiEdge_windows (s : State) (e : SpiEdge) : (s.spiEdge e).windows = s.windows := by
  cases hr : s.resetn with
  | false =>
    obtain ⟨session, bits, -, h, -⟩ := spiEdge_low e hr
    rw [h]
  | true =>
    rcases spiEdge_cases e hr with h | ⟨-, -, h⟩ | ⟨mosi, a, -, -, -, h⟩ | ⟨a, -, -, -, h⟩ | ⟨a, -, -, h⟩ <;>
      rw [h]
    · rfl
    · rfl
    · unfold State.sclkFalls
      split <;> rfl
    · unfold State.csRises
      dsimp only
      split <;> rfl

theorem runEdges_windows (own : State → SpiEdge → Bool) (edges : List SpiEdge) (s : State) :
    (runEdges own edges s).windows = s.windows := by
  have keeps : ∀ u e, u.windows = s.windows → own u e = true → (u.spiEdge e).windows = s.windows :=
    fun u e h _ => (spiEdge_windows u e).trans h
  exact runEdges_keeps keeps edges s rfl

/-! ### Commands of the table controller -/

/-- A command whose execution keeps the REVOKING windows keeps them when it is taken, too. -/
theorem runCommand_keepsRevoking {code : CommandCode} {body : RespIx → List Byte → State → State} {s t : State}
    (hbody : ∀ k p u, KeepsRevoking u (body k p u)) (h : runCommand code body s = .next t) : KeepsRevoking s t := by
  rcases runCommand_cases code body s with ⟨f, rest, k, -, -, he⟩ | he <;> rw [he] at h <;> cases h
  · exact hbody k f.payload (s.deferred f rest k)
  · exact .refl s

/-- What DERIVE's checks pass is a plan for a FREE slot (R9, R125). -/
theorem deriveChecks_slot_free {s : State} {a : DeriveArgs} {plan : DerivePlan} (h : deriveChecks s a = .ok plan) :
    s.windows[plan.slot].occ = .free := by
  have slot_of_deriveFrom {parent i : SlotIx} {pw : Window} (hfrom : deriveFrom s parent pw a = .ok i) :
      s.windows[i].occ = .free := by
    unfold deriveFrom at hfrom
    split_ifs at hfrom
    split at hfrom
    · cases hfrom
    next j hlowest =>
      cases hfrom
      exact isFree_iff.mp (lowestFreeSlot_some.mp hlowest).1.2
  unfold deriveChecks at h
  split at h
  · cases h
  · split_ifs at h
    split at h
    · cases h
    · cases h
    · split at h
      · cases h
      next i hfrom =>
        cases h
        exact slot_of_deriveFrom hfrom

/-- An allocation in a FREE slot changes no other slot's state (R125). -/
theorem allocate_keepsRevoking {s : State} {plan : DerivePlan} (a : DeriveArgs)
    (hfree : s.windows[plan.slot].occ = .free) : KeepsRevoking s (s.allocate plan a) := by
  intro i hi
  have hne : i ≠ plan.slot := by
    rintro rfl
    obtain ⟨w, c, hocc⟩ := isRevoking_iff.mp hi
    rw [hfree] at hocc
    cases hocc
  unfold State.allocate
  dsimp only
  rw [updAt_other _ _ _ _ hne, updAt_get]
  split
  next hparent => rw [isRevoking_mapWindow, ← hparent, hi]
  next => exact hi

theorem deriveBody_keepsRevoking (k : RespIx) (p : List Byte) (s : State) : KeepsRevoking s (deriveBody k p s) := by
  unfold deriveBody
  split
  · exact .of_eq rfl
  · split
    next => exact .of_eq rfl
    next a _ _ plan hchecks =>
      exact (allocate_keepsRevoking a (deriveChecks_slot_free hchecks)).trans (.of_eq rfl)

theorem shrinkBody_keepsRevoking (k : RespIx) (p : List Byte) (s : State) : KeepsRevoking s (shrinkBody k p s) := by
  unfold shrinkBody
  split
  · exact .of_eq rfl
  · split
    next => exact .of_eq rfl
    next a _ _ ix _ => exact .of_mapWindow (ix := ix) (f := narrow a) rfl

theorem acceptRevoke_windows (s : State) (root : Handle) (k : RespIx) :
    (s.acceptRevoke root k).windows =
      Vector.ofFn fun i => markSlot (subtreeOf s.windows root.index) root.index i s.windows[i] :=
  rfl

theorem revokeBody_keepsRevoking (k : RespIx) (p : List Byte) (s : State) : KeepsRevoking s (revokeBody k p s) := by
  unfold revokeBody
  split
  next => exact .of_eq rfl
  next root _ =>
    intro i hi
    simpa [acceptRevoke_windows] using isRevoking_markSlot hi

theorem bind_windows (s : State) (n : Initiator) (k : RespIx) (target : Option Handle) :
    (s.bind n k target).windows = s.windows := by
  unfold State.bind
  split
  · rfl
  · split
    · rfl
    · unfold State.stage
      dsimp only
      split <;> rfl

theorem bindDefaultBody_windows (k : RespIx) (p : List Byte) (s : State) :
    (bindDefaultBody k p s).windows = s.windows := by
  unfold bindDefaultBody
  split
  · rfl
  · split
    · rfl
    · exact bind_windows s _ k _

theorem setInitiatorBody_windows (k : RespIx) (p : List Byte) (s : State) :
    (setInitiatorBody k p s).windows = s.windows := by
  unfold setInitiatorBody
  split
  · rfl
  · split <;> rfl

/-- The start of a port reset lowers in-flight counts alone (R113). -/
theorem startReset_keepsRevoking (s : State) : KeepsRevoking s s.startReset := by
  intro i hi
  simpa [State.startReset] using hi

theorem resetPortBody_keepsRevoking (k : RespIx) (p : List Byte) (s : State) :
    KeepsRevoking s (resetPortBody k p s) := by
  have hstart : KeepsRevoking s (if s.port = .ready then s.startReset else s) := .of_ite (startReset_keepsRevoking s)
  exact hstart.trans (.of_eq rfl)

theorem setControlBody_windows (k : RespIx) (p : List Byte) (s : State) :
    (setControlBody k p s).windows = s.windows := by
  unfold setControlBody
  split <;> rfl

theorem readWindowBody_windows (k : RespIx) (p : List Byte) (s : State) :
    (readWindowBody k p s).windows = s.windows := by
  unfold readWindowBody
  split <;> rfl

theorem readInitiatorBody_windows (k : RespIx) (p : List Byte) (s : State) :
    (readInitiatorBody k p s).windows = s.windows := by
  unfold readInitiatorBody
  split <;> rfl

theorem readEventBody_windows (k : RespIx) (p : List Byte) (s : State) :
    (readEventBody k p s).windows = s.windows := by
  unfold readEventBody
  split <;> rfl

/-! ### Every command -/

/-- What a command can do with the REVOKING windows: keep them all, or free those of a drained list entry. -/
inductive RevokingChange (s t : State) : Instr → Prop
  | keeps (c : Instr) : KeepsRevoking s t → RevokingChange s t c
  | frees (pos : Fin 4) (e : RevEntry) : s.revocations[pos.val]? = some e →
      drainSum s.windows e.root.index = 0 →
      t.windows = (Vector.ofFn fun i => freedSlot s.windows e.root.index i) → RevokingChange s t (.subtreeFree pos)

theorem freeSubtree_windows (s : State) (pos : Nat) (e : RevEntry) :
    (s.freeSubtree pos e).windows = Vector.ofFn fun i => freedSlot s.windows e.root.index i :=
  rfl

theorem testDrain_revokingChange (s : State) (pos : Fin 4) :
    RevokingChange s (s.testDrain pos.val) (.subtreeFree pos) := by
  unfold State.testDrain
  split
  next e hentry =>
    split
    next hdrained => exact .frees pos e hentry hdrained (freeSubtree_windows s pos.val e)
    next => exact .keeps _ (.refl s)
  next => exact .keeps _ (.refl s)

/-- The inversion of a step out of reset: only a SUBTREE_FREE frees REVOKING windows. -/
theorem StepsTo.revokingChange {c : Instr} {s t : State} (h : StepsTo c s t) : RevokingChange s t c := by
  obtain ⟨hs, h, ht⟩ := h
  have keeps_effect {c : Instr} (effect : State → State) (he : whenOutOfReset s effect = .next t)
      (hkeeps : KeepsRevoking s (effect s)) : RevokingChange s t c := by
    rw [whenOutOfReset_high effect hs] at he
    cases he
    exact .keeps c hkeeps
  cases c with
  | resetnAssert => cases h; cases ht
  | resetnRelease bootEn bootId csLow =>
    cases h
    rw [releaseReset_high bootEn bootId csLow hs]
    exact .keeps _ (.refl s)
  | tick =>
    exact keeps_effect (·.settle.tickNow) h (.of_eq ((State.tickNow_windows _).trans (settle_windows s)))
  | upstreamRequest m r => exact keeps_effect (·.arrive m r) h (.of_eq (arrive_windows s m r))
  | take => exact keeps_effect _ h (takeOne_keepsRevoking s)
  | downstreamAccept => exact keeps_effect _ h (.of_eq (issue_windows s))
  | downstreamResponse u status data =>
    exact keeps_effect (·.respond u status data) h (respond_keepsRevoking s u status data)
  | responseTimeout => exact keeps_effect State.expireResponses h (.of_eq rfl)
  | delivery accepting => exact keeps_effect (·.deliverOne accepting) h (.of_eq (deliverOne_windows s accepting))
  | stagedCommit accepting =>
    exact keeps_effect (fun u => if u.grantCommits accepting then u.deliverOne accepting else u) h
      (.of_ite (.of_eq (deliverOne_windows s accepting)))
  | drainTimerExpiry => exact keeps_effect State.expireDrains h (.of_eq rfl)
  | stallTimerExpiry => exact keeps_effect State.expireStalls h (.of_eq rfl)
  | subtreeFree pos =>
    have hnext := whenOutOfReset_high (·.testDrain pos.val) hs
    cases hnext.symm.trans h
    exact testDrain_revokingChange s pos
  | holdEnd dnReady => exact keeps_effect (·.endHold dnReady) h (.of_eq (endHold_windows s dnReady))
  | portReady =>
    exact keeps_effect (fun u => if u.port = .awaitingReady then u.becomeReady else u) h (.of_ite (.of_eq rfl))
  | commandFrame edges => cases h; exact .keeps _ (.of_eq (runEdges_windows _ edges s))
  | fetchSelect => cases h; exact .keeps _ (.of_eq (runEdges_windows _ s.typeEdges s))
  | fetchEnd edges => cases h; exact .keeps _ (.of_eq (runEdges_windows _ edges s))
  | derive => exact .keeps _ (runCommand_keepsRevoking deriveBody_keepsRevoking h)
  | shrink => exact .keeps _ (runCommand_keepsRevoking shrinkBody_keepsRevoking h)
  | revoke => exact .keeps _ (runCommand_keepsRevoking revokeBody_keepsRevoking h)
  | bindDefault => exact .keeps _ (runCommand_keepsRevoking (fun k p u => .of_eq (bindDefaultBody_windows k p u)) h)
  | setInitiator => exact .keeps _ (runCommand_keepsRevoking (fun k p u => .of_eq (setInitiatorBody_windows k p u)) h)
  | resetMemoryPort => exact .keeps _ (runCommand_keepsRevoking resetPortBody_keepsRevoking h)
  | setControl => exact .keeps _ (runCommand_keepsRevoking (fun k p u => .of_eq (setControlBody_windows k p u)) h)
  | readWindow => exact .keeps _ (runCommand_keepsRevoking (fun k p u => .of_eq (readWindowBody_windows k p u)) h)
  | readInitiator => exact .keeps _ (runCommand_keepsRevoking (fun k p u => .of_eq (readInitiatorBody_windows k p u)) h)
  | readEvent => exact .keeps _ (runCommand_keepsRevoking (fun k p u => .of_eq (readEventBody_windows k p u)) h)
  | readStatus => exact .keeps _ (runCommand_keepsRevoking (body := readStatusBody) (fun _ _ _ => .of_eq rfl) h)

/-- A REVOKING window becomes FREE only by the free of a drained list entry that covers it (R145, R146). -/
theorem RevokingChange.freed {c : Instr} {s t : State} {i : SlotIx} (h : RevokingChange s t c)
    (hrev : s.windows[i].isRevoking = true) (hfree : t.windows[i].isFree = true) :
    (∃ pos, c = .subtreeFree pos) ∧
      ∃ root, s.windows[i].coveredBy root = true ∧ drainSum s.windows root = 0 := by
  cases h with
  | keeps _ hkeeps =>
    rw [not_isFree_of_isRevoking (hkeeps i hrev)] at hfree
    cases hfree
  | frees pos e _ hdrained hwindows =>
    have hfreed : (freedSlot s.windows e.root.index i).isFree = true := by simpa [hwindows] using hfree
    exact ⟨⟨pos, rfl⟩, e.root.index, freedSlot_free hrev hfreed, hdrained⟩

/-! ### What holds all through a subtree (R140) -/

section

variable {t : Vector WindowSlot 64} {P : SlotIx → Prop} (hchild : ∀ p i, P p → childIn t p i → P i)

include hchild

/-- A property that children inherit, and that the members of a set have, holds one level further down. -/
theorem growSubtree_inherits {m : BitVec 64} (hm : ∀ i : SlotIx, m.getLsbD i.val = true → P i) :
    ∀ i : SlotIx, (growSubtree t m).getLsbD i.val = true → P i := by
  unfold growSubtree
  refine List.foldlRecOn (motive := fun acc : BitVec 64 => ∀ i : SlotIx, acc.getLsbD i.val = true → P i) _ _ hm
    fun acc hacc p _ => ?_
  split
  next hp =>
    intro i hi
    rw [BitVec.getLsbD_or, Bool.or_eq_true] at hi
    exact hi.elim (hacc i) (hchild p i (hm p hp))
  next => exact hacc

theorem closeSubtree_inherits (fuel : Nat) :
    ∀ {m : BitVec 64}, (∀ i : SlotIx, m.getLsbD i.val = true → P i) →
      ∀ i : SlotIx, (closeSubtree t fuel m).getLsbD i.val = true → P i := by
  induction fuel with
  | zero => exact fun hm => hm
  | succ fuel ih =>
    intro m hm
    unfold closeSubtree
    dsimp only
    split
    · exact hm
    · exact ih (growSubtree_inherits hchild hm)

/-- What a window has and children inherit, every window of its subtree has. -/
theorem subtreeOf_inherits {i j : SlotIx} (hi : P i) (hj : (subtreeOf t i).getLsbD j.val = true) : P j := by
  refine closeSubtree_inherits hchild 64 (fun k hk => ?_) j hj
  obtain rfl : i = k := by
    rw [slotBit, BitVec.getLsbD_twoPow, Bool.and_eq_true, decide_eq_true_eq, decide_eq_true_eq] at hk
    exact Fin.ext hk.2
  exact hi

end

/-- The subtree of a covered window is covered by the same list entry (R24, R140). -/
theorem WindowLaw.subtree_covered {s : State} (hlaw : WindowLaw s) {root i j : SlotIx}
    (hi : s.windows[i].coveredBy root = true) (hj : (subtreeOf s.windows i).getLsbD j.val = true) :
    s.windows[j].coveredBy root = true := by
  refine subtreeOf_inherits (P := fun k => s.windows[k].coveredBy root = true) (fun p k hp hk => ?_) hi hj
  obtain ⟨v, hocc⟩ := coveredBy_iff.mp hp
  rw [childIn, children_of_revoking hocc] at hk
  exact coveredBy_iff.mpr (hlaw.revoking_down p k root v hocc hk)

/-! ### A drained window -/

/-- With a drain sum of 0, every covered slot's in-flight count is 0 (R145). -/
theorem inFlight_of_drained {t : Vector WindowSlot 64} {root i : SlotIx} (hcovered : t[i].coveredBy root = true)
    (hdrained : drainSum t root = 0) : t[i].inFlight = 0 := by
  have hmember : i ∈ coveredSlots t root := List.mem_filter.mpr ⟨List.mem_finRange i, hcovered⟩
  exact List.sum_eq_zero_iff_forall_eq_nat.mp hdrained _ (List.mem_map_of_mem hmember)

/-- With an in-flight count of 0, no entry counts in the window (R19). -/
theorem CountLaw.holds_ne {s : State} (hlaw : CountLaw s) {i : SlotIx} (hzero : s.windows[i].inFlight = 0) (τ : Tag) :
    s.tracker[τ].holds ≠ some i := by
  have hnone : heldBy s.tracker i = 0 := (hlaw i).symm.trans hzero
  simpa using List.countP_eq_zero.mp hnone τ (List.mem_finRange τ)

/-- Settles O51: the free covers the whole subtree of what it frees, and its drain test found every count 0. -/
theorem revokingWindowFreedOnlyWhenDrained : Obligations.RevokingWindowFreedOnlyWhenDrained := by
  unfold Obligations.RevokingWindowFreedOnlyWhenDrained
  intro c s t i j hstep hwindows hcounts hrev hfree hj
  obtain ⟨hc, root, hi, hdrained⟩ := hstep.revokingChange.freed hrev hfree
  have hzero : s.windows[j].inFlight = 0 := inFlight_of_drained (hwindows.subtree_covered hi hj) hdrained
  exact ⟨hc, hzero, hcounts.holds_ne hzero⟩

end Sys2Proof.Machine
end

/-! SUPPORT. What a command can do, said once for every statement that ranges over all commands: an event that
does not occur leaves the state as it is, and each one that occurs has the effect of its row. A law's proof and
a safety statement then have one case for each effect. -/

namespace Sys2Proof.Machine

/- One proof after another: a thread for each at once is more than a machine holds. -/
set_option Elab.async false

/-! ### The controller's commands -/

/-- What the table controller executes for a frame of each code. -/
def tableBody : CommandCode → RespIx → List Byte → State → State
  | .derive => deriveBody
  | .shrink => shrinkBody
  | .revoke => revokeBody
  | .bindDefault => bindDefaultBody
  | .setInitiator => setInitiatorBody
  | .resetMemoryPort => resetPortBody
  | .setControl => setControlBody
  | .readWindow => readWindowBody
  | .readInitiator => readInitiatorBody
  | .readEvent => readEventBody
  | .readStatus => readStatusBody

theorem exec_tableCommand (code : CommandCode) (s : State) :
    exec (tableCommand code) s = runCommand code (tableBody code) s := by
  cases code <;> rfl

/-- What the controller does with the frame it takes. -/
theorem exec_takes {s : State} {f : Frame} {rest : List Frame} {k : RespIx} {code : CommandCode}
    (ht : Takes s f rest k) (hc : f.code = code) :
    exec (tableCommand code) s = .next (tableBody code k f.payload (s.deferred f rest k)) := by
  rw [exec_tableCommand, runCommand_takes _ ht hc]

/-! ### The effects of the commands -/

/-- `M` holds of every command and what it can make of `s`: one field for each effect a command can have,
under what is known when it has it. -/
structure Effects (s : State) (M : Instr → State → Prop) : Prop where
  /-- the event does not occur -/
  idle : ∀ c, M c s
  asserts : M .resetnAssert s.assertReset
  releases : ∀ bootEn bootId csLow, s.resetn = false →
    M (.resetnRelease bootEn bootId csLow) (s.releaseReset bootEn bootId csLow)
  ticks : M .tick s.settle.tickNow
  arrives : ∀ (n : Initiator) (r : Request), r.complete = true → s.lanes[n].length < Config.laneDepth →
    M (.upstreamRequest n r) { s with lanes := updAt s.lanes n (· ++ [r]) }
  admits : ∀ (n : Initiator) (u : Tag) (r : Request) (rest : List Request) (ix : SlotIx),
    s.grantedLane = some n → s.lanes[n] = r :: rest → s.lowestFreeTag = some u → s.judge n r = .admitted ix →
    M .take ((s.leaveLane n).enterAdmitted n r u ix)
  refuses : ∀ (n : Initiator) (u : Tag) (r : Request) (rest : List Request) (kind : EventKind)
    (window : Option SlotIx), s.grantedLane = some n → s.lanes[n] = r :: rest → s.lowestFreeTag = some u →
    s.judge n r = .refuse kind window → M .take ((s.leaveLane n).refuse n r u kind window)
  issues : ∀ (u : Tag) (x : Txn) (data : List Beat) (rest : List Tag), s.port = .ready → s.forward = u :: rest →
    s.tracker[u] = .queued x data →
    M .downstreamAccept
      { s with
        tracker := s.tracker.set u (.issued x 0 false)
        forward := rest
        dnOut := some ⟨u, x.kind, s.translate x, x.len, data⟩ }
  completes : ∀ (u : Tag) (x : Txn) (e : Nat) (d : Bool) (status : DnStatus) (data : List Beat), s.port = .ready →
    s.tracker[u] = .issued x e d → M (.downstreamResponse u status data) (s.timely u x status data)
  late : ∀ (u : Tag) (x : Txn) (after : Entry) (status : DnStatus) (data : List Beat), s.port = .ready →
    s.tracker[u] = .expired x true ∧ after = .expired x false ∨ s.tracker[u] = .orphaned x ∧ after = .free →
    M (.downstreamResponse u status data) (s.late u x after)
  strays : ∀ (u : Tag) (status : DnStatus) (data : List Beat),
    M (.downstreamResponse u status data) (s.logAll [strayEvent u])
  responsesExpire : M .responseTimeout s.expireResponses
  delivers : ∀ (c : Instr) (accepting : BitVec 8) (n : Initiator) (u : Tag) (rest : List Tag),
    c = .delivery accepting ∨ c = .stagedCommit accepting → s.grantedResponse accepting = some n →
    s.deliveryLists[n] = u :: rest → s.tracker[u].deliverable = true → M c (s.deliverHead n u)
  drainsExpire : M .drainTimerExpiry s.expireDrains
  stallsExpire : M .stallTimerExpiry s.expireStalls
  frees : ∀ (pos : Fin 4) (e : RevEntry), s.revocations[pos.val]? = some e → drainSum s.windows e.root.index = 0 →
    M (.subtreeFree pos) (s.freeSubtree pos.val e)
  holdEnds : ∀ dnReady, M (.holdEnd dnReady) (s.endHold dnReady)
  becomesReady : s.port = .awaitingReady → M .portReady s.becomeReady
  commandEdges : ∀ edges, M (.commandFrame edges) (runEdges State.ownsCommand edges s)
  typeEdges : M .fetchSelect (runEdges (fun _ _ => true) s.typeEdges s)
  fetchEdges : ∀ edges, M (.fetchEnd edges) (runEdges State.ownsFetch edges s)
  /-- a command that fails, or only reads -/
  answers : ∀ (f : Frame) (rest : List Frame) (k : RespIx) (o : CmdOutcome) (p : List Byte), Takes s f rest k →
    M (tableCommand f.code) (s.answered f rest k o p)
  derives : ∀ (f : Frame) (rest : List Frame) (k : RespIx) (a : DeriveArgs) (plan : DerivePlan) (p : List Byte),
    Takes s f rest k → f.code = .derive → deriveChecks s a = .ok plan →
    M .derive ((s.answered f rest k .done p).allocate plan a)
  shrinks : ∀ (f : Frame) (rest : List Frame) (k : RespIx) (a : ShrinkArgs) (ix : SlotIx), Takes s f rest k →
    f.code = .shrink → shrinkChecks s a = .ok ix → M .shrink ((s.answered f rest k .done []).narrowWindow ix a)
  accepts : ∀ (f : Frame) (rest : List Frame) (k : RespIx) (h : Handle), Takes s f rest k → f.code = .revoke →
    revokeChecks s (handleAt f.payload 0) = .ok h → M .revoke ((s.deferred f rest k).acceptRevoke h k)
  replaces : ∀ (f : Frame) (rest : List Frame) (k : RespIx) (n : Initiator) (target : Option Handle) (old : Pending),
    Takes s f rest k → f.code = .bindDefault → bindChecks s n (bindingOf f.payload) = .ok target →
    s.contexts[n].rebind.pending? = some old → M .bindDefault ((s.deferred f rest k).replaceBinding n k target old)
  binds : ∀ (f : Frame) (rest : List Frame) (k : RespIx) (n : Initiator) (target : Option Handle),
    Takes s f rest k → f.code = .bindDefault → bindChecks s n (bindingOf f.payload) = .ok target →
    s.contexts[n].rebind = .none → s.contexts[n].undelivered = 0 →
    M .bindDefault ((s.answered f rest k .done []).updContext n fun c => { c with current := target })
  stages : ∀ (f : Frame) (rest : List Frame) (k : RespIx) (n : Initiator) (target : Option Handle),
    Takes s f rest k → f.code = .bindDefault → bindChecks s n (bindingOf f.payload) = .ok target →
    s.contexts[n].rebind = .none → s.contexts[n].undelivered ≠ 0 →
    M .bindDefault ((s.deferred f rest k).stage n k target)
  setsInitiator : ∀ (f : Frame) (rest : List Frame) (k : RespIx) (n : Initiator) (st : InitState) (po : Policy),
    Takes s f rest k → f.code = .setInitiator →
    M .setInitiator ((s.answered f rest k .done []).updContext n fun c => { c with state := st, policy := po })
  startsReset : ∀ (f : Frame) (rest : List Frame) (k : RespIx), Takes s f rest k → f.code = .resetMemoryPort →
    s.port = .ready →
    M .resetMemoryPort { (s.deferred f rest k).startReset with waitingResets := s.waitingResets ++ [k] }
  joinsReset : ∀ (f : Frame) (rest : List Frame) (k : RespIx), Takes s f rest k → f.code = .resetMemoryPort →
    s.port ≠ .ready → M .resetMemoryPort { s.deferred f rest k with waitingResets := s.waitingResets ++ [k] }
  setsControl : ∀ (f : Frame) (rest : List Frame) (k : RespIx) (c : Settings), Takes s f rest k →
    f.code = .setControl → settingsOf f.payload = some c →
    M .setControl { s.answered f rest k .done c.report with settings := c }
  readsEvent : ∀ (f : Frame) (rest : List Frame) (k : RespIx) (r : EventRecord) (others : List EventRecord),
    Takes s f rest k → f.code = .readEvent → s.log.records = r :: others →
    M .readEvent { s.answered f rest k .done r.report with log := { s.log with records := others } }

namespace Effects

variable {s t : State} {M : Instr → State → Prop}

/-- Out of reset an event has its effect, and in reset it does not occur. -/
theorem whenOutOfReset (h : Effects s M) {c : Instr} (effect : State → State) (he : M c (effect s))
    (hx : Machine.whenOutOfReset s effect = .next t) : M c t := by
  cases hr : s.resetn with
  | true => rw [whenOutOfReset_high effect hr] at hx; cases hx; exact he
  | false => rw [whenOutOfReset_low effect hr] at hx; cases hx; exact h.idle c

theorem takeOne (h : Effects s M) : M .take s.takeOne := by
  unfold State.takeOne
  split
  next n u hn hu =>
    split
    next r rest hl =>
      unfold State.takeFrom
      split
      next ix hj => exact h.admits n u r rest ix hn hl hu hj
      next kind window hj => exact h.refuses n u r rest kind window hn hl hu hj
    next => exact h.idle _
  next => exact h.idle _

theorem issue (h : Effects s M) : M .downstreamAccept s.issue := by
  unfold State.issue
  split
  next q u rest hoffer hforward =>
    split
    next x data hentry =>
      have hport : s.port = .ready := by
        unfold State.offered at hoffer
        split at hoffer
        next hp _ => exact hp
        next => cases hoffer
      rw [offered_of_head hoffer hforward hentry]
      exact h.issues u x data rest hport hforward hentry
    next => exact h.idle _
  next => exact h.idle _

theorem respond (h : Effects s M) (u : Tag) (status : DnStatus) (data : List Beat) :
    M (.downstreamResponse u status data) (s.respond u status data) := by
  unfold State.respond
  split
  next hp =>
    split
    next x e d hu => exact h.completes u x e d status data hp hu
    next x hu => exact h.late u x _ status data hp (.inl ⟨hu, rfl⟩)
    next x hu => exact h.late u x _ status data hp (.inr ⟨hu, rfl⟩)
    next => exact h.strays u status data
  next => exact h.idle _

theorem deliverOne (h : Effects s M) {c : Instr} {accepting : BitVec 8}
    (hc : c = .delivery accepting ∨ c = .stagedCommit accepting) : M c (s.deliverOne accepting) := by
  unfold State.deliverOne
  split
  next n hn =>
    have hhead : s.deliverableHead n = true := ((Bool.and_eq_true _ _).mp (roundRobin_some.mp hn).1).2
    split
    next u rest hl =>
      exact h.delivers c accepting n u rest hc hn hl (by simpa only [State.deliverableHead, hl] using hhead)
    next => exact h.idle _
  next => exact h.idle _

theorem testDrain (h : Effects s M) (pos : Fin 4) : M (.subtreeFree pos) (s.testDrain pos.val) := by
  unfold State.testDrain
  split
  next e he =>
    split
    next hd => exact h.frees pos e he hd
    next => exact h.idle _
  next => exact h.idle _

section Controller

variable {f : Frame} {rest : List Frame} {k : RespIx}

/-- A command that answers at once in the slot just reserved. -/
theorem answer (h : Effects s M) (ht : Takes s f rest k) {code : CommandCode} (hc : f.code = code) (o : CmdOutcome)
    (p : List Byte) : M (tableCommand code) ((s.deferred f rest k).answer k o p) := by
  rw [answer_deferred, ← hc]
  exact h.answers f rest k o p ht

theorem deriveBody (h : Effects s M) (ht : Takes s f rest k) (hc : f.code = .derive) :
    M .derive (Machine.deriveBody k f.payload (s.deferred f rest k)) := by
  unfold Machine.deriveBody
  split
  next => exact h.answer ht hc _ _
  next a _ =>
    split
    next => exact h.answer ht hc _ _
    next plan hchecks =>
      have hd := h.derives f rest k a plan [BitVec.ofNat 8 plan.slot.val, s.windows[plan.slot].gen] ht hc hchecks
      rw [← answer_deferred] at hd
      exact hd

theorem shrinkBody (h : Effects s M) (ht : Takes s f rest k) (hc : f.code = .shrink) :
    M .shrink (Machine.shrinkBody k f.payload (s.deferred f rest k)) := by
  unfold Machine.shrinkBody
  split
  next => exact h.answer ht hc _ _
  next a _ =>
    split
    next => exact h.answer ht hc _ _
    next ix hchecks =>
      have hd := h.shrinks f rest k a ix ht hc hchecks
      rw [← answer_deferred] at hd
      exact hd

theorem revokeBody (h : Effects s M) (ht : Takes s f rest k) (hc : f.code = .revoke) :
    M .revoke (Machine.revokeBody k f.payload (s.deferred f rest k)) := by
  unfold Machine.revokeBody
  split
  next => exact h.answer ht hc _ _
  next g hchecks => exact h.accepts f rest k g ht hc hchecks

theorem bindDefaultBody (h : Effects s M) (ht : Takes s f rest k) (hc : f.code = .bindDefault) :
    M .bindDefault (Machine.bindDefaultBody k f.payload (s.deferred f rest k)) := by
  unfold Machine.bindDefaultBody
  split
  next => exact h.answer ht hc _ _
  next n _ =>
    split
    next => exact h.answer ht hc _ _
    next target hchecks =>
      unfold State.bind
      split
      next old hold => exact h.replaces f rest k n target old ht hc hchecks hold
      next hnone =>
        split
        next hzero =>
          have hd := h.binds f rest k n target ht hc hchecks (Rebind.pending_none.mp hnone) hzero
          rw [← answer_deferred] at hd
          exact hd
        next hpos => exact h.stages f rest k n target ht hc hchecks (Rebind.pending_none.mp hnone) hpos

theorem setInitiatorBody (h : Effects s M) (ht : Takes s f rest k) (hc : f.code = .setInitiator) :
    M .setInitiator (Machine.setInitiatorBody k f.payload (s.deferred f rest k)) := by
  unfold Machine.setInitiatorBody
  split
  next => exact h.answer ht hc _ _
  next n _ =>
    split
    next st po _ _ =>
      have hd := h.setsInitiator f rest k n st po ht hc
      rw [← answer_deferred] at hd
      exact hd
    next => exact h.answer ht hc _ _

theorem resetPortBody (h : Effects s M) (ht : Takes s f rest k) (hc : f.code = .resetMemoryPort) :
    M .resetMemoryPort (Machine.resetPortBody k f.payload (s.deferred f rest k)) := by
  unfold Machine.resetPortBody
  dsimp only
  split
  next hp =>
    rw [State.startReset_waitingResets]
    exact h.startsReset f rest k ht hc hp
  next hp => exact h.joinsReset f rest k ht hc hp

theorem setControlBody (h : Effects s M) (ht : Takes s f rest k) (hc : f.code = .setControl) :
    M .setControl (Machine.setControlBody k f.payload (s.deferred f rest k)) := by
  unfold Machine.setControlBody
  split
  next c hargs =>
    have hd := h.setsControl f rest k c ht hc hargs
    rw [← answer_deferred] at hd
    exact hd
  next => exact h.answer ht hc _ _

theorem readEventBody (h : Effects s M) (ht : Takes s f rest k) (hc : f.code = .readEvent) :
    M .readEvent (Machine.readEventBody k f.payload (s.deferred f rest k)) := by
  unfold Machine.readEventBody
  split
  next r others hlog =>
    have hd := h.readsEvent f rest k r others ht hc hlog
    rw [← answer_deferred] at hd
    exact hd
  next => exact h.answer ht hc _ _

/-- Whatever the controller takes, its execution is one of the effects. -/
theorem tableBody (h : Effects s M) (ht : Takes s f rest k) {code : CommandCode} (hc : f.code = code) :
    M (tableCommand code) (Machine.tableBody code k f.payload (s.deferred f rest k)) := by
  cases code with
  | derive => exact h.deriveBody ht hc
  | shrink => exact h.shrinkBody ht hc
  | revoke => exact h.revokeBody ht hc
  | bindDefault => exact h.bindDefaultBody ht hc
  | setInitiator => exact h.setInitiatorBody ht hc
  | resetMemoryPort => exact h.resetPortBody ht hc
  | setControl => exact h.setControlBody ht hc
  | readWindow =>
    simp only [Machine.tableBody, Machine.readWindowBody]
    split <;> exact h.answer ht hc _ _
  | readInitiator =>
    simp only [Machine.tableBody, Machine.readInitiatorBody]
    split <;> exact h.answer ht hc _ _
  | readEvent => exact h.readEventBody ht hc
  | readStatus => exact h.answer ht hc _ _

end Controller

theorem table (h : Effects s M) (code : CommandCode) (hx : exec (tableCommand code) s = .next t) :
    M (tableCommand code) t := by
  rw [exec_tableCommand] at hx
  rcases runCommand_cases code (Machine.tableBody code) s with ⟨f, rest, k, ht, hc, he⟩ | he <;>
    rw [he] at hx <;> cases hx
  · exact h.tableBody ht hc
  · exact h.idle _

/-- Whatever a command makes of the state is one of the effects. -/
theorem exec (h : Effects s M) {c : Instr} (hx : Machine.exec c s = .next t) : M c t := by
  cases c with
  | resetnAssert => cases hx; exact h.asserts
  | resetnRelease bootEn bootId csLow =>
    cases hx
    cases hr : s.resetn with
    | true => rw [releaseReset_high bootEn bootId csLow hr]; exact h.idle _
    | false => exact h.releases bootEn bootId csLow hr
  | tick => exact h.whenOutOfReset (·.settle.tickNow) h.ticks hx
  | upstreamRequest n r =>
    refine h.whenOutOfReset (State.arrive · n r) ?_ hx
    unfold State.arrive
    split
    next hroom =>
      obtain ⟨hr, hl⟩ := (Bool.and_eq_true _ _).mp hroom
      exact h.arrives n r hr (of_decide_eq_true hl)
    next => exact h.idle _
  | take => exact h.whenOutOfReset _ h.takeOne hx
  | downstreamAccept => exact h.whenOutOfReset _ h.issue hx
  | downstreamResponse u status data => exact h.whenOutOfReset (·.respond u status data) (h.respond u status data) hx
  | responseTimeout => exact h.whenOutOfReset _ h.responsesExpire hx
  | delivery accepting => exact h.whenOutOfReset (·.deliverOne accepting) (h.deliverOne (.inl rfl)) hx
  | stagedCommit accepting =>
    refine h.whenOutOfReset (fun u => if u.grantCommits accepting then u.deliverOne accepting else u) ?_ hx
    split
    · exact h.deliverOne (.inr rfl)
    · exact h.idle _
  | drainTimerExpiry => exact h.whenOutOfReset _ h.drainsExpire hx
  | stallTimerExpiry => exact h.whenOutOfReset _ h.stallsExpire hx
  | subtreeFree pos => exact h.whenOutOfReset (·.testDrain pos.val) (h.testDrain pos) hx
  | holdEnd dnReady => exact h.whenOutOfReset (·.endHold dnReady) (h.holdEnds dnReady) hx
  | portReady =>
    refine h.whenOutOfReset (fun u => if u.port = .awaitingReady then u.becomeReady else u) ?_ hx
    split
    next hp => exact h.becomesReady hp
    next => exact h.idle _
  | commandFrame edges => cases hx; exact h.commandEdges edges
  | fetchSelect => cases hx; exact h.typeEdges
  | fetchEnd edges => cases hx; exact h.fetchEdges edges
  | derive => exact h.table .derive hx
  | shrink => exact h.table .shrink hx
  | revoke => exact h.table .revoke hx
  | bindDefault => exact h.table .bindDefault hx
  | setInitiator => exact h.table .setInitiator hx
  | resetMemoryPort => exact h.table .resetMemoryPort hx
  | setControl => exact h.table .setControl hx
  | readWindow => exact h.table .readWindow hx
  | readInitiator => exact h.table .readInitiator hx
  | readEvent => exact h.table .readEvent hx
  | readStatus => exact h.table .readStatus hx

end Effects

/-! ### Laws -/

/-- A predicate that every effect, and every stage of a REFCLK period, keeps. -/
structure Kept (P : State → Prop) : Prop where
  pending : ∀ (s : State) (q : List Instr), P s → P { s with pending := q }
  counts : ∀ s : State, P s → s.divider + 1 < s.interval → P { s with divider := s.divider + 1 }
  holdEnds : ∀ s : State, P s → ∀ dnReady, P (s.endHold dnReady)
  responsesExpire : ∀ s : State, P s → P s.expireResponses
  drainsExpire : ∀ s : State, P s → P s.expireDrains
  stallsExpire : ∀ s : State, P s → P s.expireStalls
  ticks : ∀ s : State, P s → P s.tickNow

namespace Kept

variable {P : State → Prop}

theorem settle (h : Kept P) {s : State} (hs : P s) : P s.settle :=
  h.stallsExpire _ (h.drainsExpire _ (h.responsesExpire _ (h.holdEnds _ hs false)))

theorem refclkPeriod (h : Kept P) {s : State} (hs : P s) : P s.refclkPeriod := by
  unfold State.refclkPeriod
  split
  · dsimp only
    split
    · exact h.ticks _ (h.settle hs)
    next hlt => exact h.counts _ (h.settle hs) (by omega)
  · exact hs

/-- What time keeps and every command keeps, every step keeps. -/
theorem step_of_exec (h : Kept P) (hexec : ∀ (c : Instr) (s t : State), P s → exec c s = .next t → P t) {s t : State}
    (hs : P s) (hx : Machine.step s = .next t) : P t := by
  unfold Machine.step at hx
  split at hx
  next c rest hq => exact hexec c _ t (h.pending s rest hs) hx
  next => cases hx; exact h.refclkPeriod hs

/-- What time keeps and every effect keeps, every step keeps. -/
theorem step (h : Kept P) (heffects : ∀ s, P s → Effects s fun _ t => P t) {s t : State} (hs : P s)
    (hx : Machine.step s = .next t) : P t :=
  h.step_of_exec (fun _ _ _ hs hx => (heffects _ hs).exec hx) hs hx

end Kept

end Sys2Proof.Machine

/-! SUPPORT. The owners of the reserved response slots (R178, R180, R183): each slot's claim is one block's, a take
makes a claim, and a filling ends one. -/

namespace Sys2Proof.Machine

/- One proof after another: a thread for each at once is more than a machine holds. -/
set_option Elab.async false

/-! ### Fillings -/

theorem slot_set (v : Vector RespSlot 8) (k j : RespIx) (r : RespSlot) :
    (v.set k r)[j] = if j = k then r else v[j] :=
  updAt_get v k j fun _ => r

/-- A filling leaves every slot but its own. -/
theorem fill_slots_other {b : SlotBank} {f : Fill} {j : RespIx} (h : j ≠ f.slot) :
    (b.fill f).slots[j] = b.slots[j] := by
  unfold SlotBank.fill
  split
  · rw [slot_set, if_neg h]
  · rfl

/-- Fillings leave every slot that none of them names. -/
theorem fills_slots_other {j : RespIx} : ∀ {fs : List Fill} {b : SlotBank}, j ∉ fs.map Fill.slot →
    (fs.foldl SlotBank.fill b).slots[j] = b.slots[j]
  | [], _, _ => rfl
  | f :: fs, b, h => by
    rw [List.map_cons, List.mem_cons, not_or] at h
    rw [List.foldl_cons, fills_slots_other h.2, fill_slots_other h.1]

theorem fillAll_bank (s : State) (fs : List Fill) : (s.fillAll fs).bank = fs.foldl SlotBank.fill s.bank :=
  rfl

/-! ### Claims -/

/-- A claim on a response slot: the slot, and the code of the command that it is reserved for. -/
abbrev Claim := RespIx × CommandCode

/-- The claims are exactly those of the reserved slots, one for each, under the code it was reserved for. -/
structure Owned (claims : List Claim) (slots : Vector RespSlot 8) : Prop where
  nodup : (claims.map Prod.fst).Nodup
  reserved : ∀ k : RespIx, slots[k].isReserved = true → k ∈ claims.map Prod.fst
  holds : ∀ c ∈ claims, ∃ seq, slots[c.1] = .reserved seq c.2

namespace Owned

variable {claims claims' : List Claim} {slots : Vector RespSlot 8} {k : RespIx}

theorem perm (h : Owned claims slots) (hp : claims.Perm claims') : Owned claims' slots where
  nodup := (hp.map Prod.fst).nodup_iff.mp h.nodup
  reserved := fun k hk => (hp.map Prod.fst).mem_iff.mp (h.reserved k hk)
  holds := fun c hc => h.holds c (hp.mem_iff.mpr hc)

/-- A slot that is not reserved has no claim. -/
theorem not_mem (h : Owned claims slots) (hk : slots[k].isReserved = false) : k ∉ claims.map Prod.fst := by
  intro hm
  obtain ⟨c, hc, rfl⟩ := List.mem_map.mp hm
  obtain ⟨seq, hs⟩ := h.holds c hc
  rw [hs] at hk
  cases hk

/-- Reserving an empty slot makes its claim (R179). -/
theorem reserve (h : Owned claims slots) (hk : slots[k].isReserved = false) (seq : Byte) (code : CommandCode) :
    Owned ((k, code) :: claims) (slots.set k (.reserved seq code)) where
  nodup := List.nodup_cons.mpr ⟨h.not_mem hk, h.nodup⟩
  reserved := by
    intro j hj
    rw [slot_set] at hj
    rw [List.map_cons, List.mem_cons]
    split at hj
    next he => exact .inl he
    next => exact .inr (h.reserved j hj)
  holds := by
    intro c hc
    rcases List.mem_cons.mp hc with rfl | hc
    · exact ⟨seq, by rw [slot_set, if_pos rfl]⟩
    · have hne : c.1 ≠ k := fun he => h.not_mem hk (List.mem_map.mpr ⟨c, hc, he⟩)
      rw [slot_set, if_neg hne]
      exact h.holds c hc

/-- A slot without a claim may change to any that is not reserved. -/
theorem set_free (h : Owned claims slots) (hk : slots[k].isReserved = false) {r : RespSlot}
    (hr : r.isReserved = false) : Owned claims (slots.set k r) where
  nodup := h.nodup
  reserved := by
    intro j hj
    rw [slot_set] at hj
    split at hj
    · rw [hr] at hj; cases hj
    · exact h.reserved j hj
  holds := by
    intro c hc
    have hne : c.1 ≠ k := fun he => h.not_mem hk (List.mem_map.mpr ⟨c, hc, he⟩)
    rw [slot_set, if_neg hne]
    exact h.holds c hc

/-- A filling ends the claim on its slot (R178). -/
theorem fill {b : SlotBank} {f : Fill} {code : CommandCode} (h : Owned ((f.slot, code) :: claims) b.slots) :
    Owned claims (b.fill f).slots := by
  obtain ⟨seq, hs⟩ := h.holds _ List.mem_cons_self
  obtain ⟨hnot, hnodup⟩ := List.nodup_cons.mp h.nodup
  have hfill : (b.fill f).slots = b.slots.set f.slot (.filled ⟨seq, code, f.outcome, f.payload⟩) := by
    rw [fill_reserved f.outcome f.payload hs]
  refine ⟨hnodup, fun j hj => ?_, fun c hc => ?_⟩
  · rw [hfill, slot_set] at hj
    split at hj
    · cases hj
    next hne => exact (List.mem_cons.mp (h.reserved j hj)).resolve_left hne
  · have hne : c.1 ≠ f.slot := fun he => hnot (List.mem_map.mpr ⟨c, hc, he⟩)
    rw [fill_slots_other hne]
    exact h.holds c (List.mem_cons_of_mem _ hc)

/-- Several fillings end the claims on their slots. -/
theorem fills : ∀ {fs : List Fill} {ended : List Claim} {b : SlotBank}, ended.map Prod.fst = fs.map Fill.slot →
    Owned (ended ++ claims) b.slots → Owned claims (fs.foldl SlotBank.fill b).slots
  | [], [], _, _, h => h
  | f :: fs, (k, code) :: ended, b, he, h => by
    obtain ⟨hslot, hrest⟩ := List.cons.inj he
    obtain rfl : k = f.slot := hslot
    have hfill : Owned (ended ++ claims) (b.fill f).slots := Owned.fill h
    exact fills (b := b.fill f) hrest hfill

end Owned

/-! ### The claims of a state -/

/-- The slots an entry of the revocation list holds (R180). -/
def RevEntry.slots (e : RevEntry) : List RespIx :=
  e.own :: e.absorbed

/-- The slot of an initiator's staging command. -/
def stagingSlot (cs : Vector Context 8) (n : Initiator) : Option RespIx :=
  cs[n].rebind.pending?.map Pending.slot

theorem stagingSlot_some {cs : Vector Context 8} {n : Initiator} {p : Pending}
    (h : cs[n].rebind.pending? = some p) : stagingSlot cs n = some p.slot := by
  rw [stagingSlot, h]
  rfl

theorem stagingSlot_none {cs : Vector Context 8} {n : Initiator} (h : cs[n].rebind = .none) :
    stagingSlot cs n = none := by
  rw [stagingSlot, h]
  rfl

theorem stagingSlot_updAt (cs : Vector Context 8) (n m : Initiator) (f : Context → Context) :
    stagingSlot (updAt cs n f) m =
      if m = n then (f cs[n]).rebind.pending?.map Pending.slot else stagingSlot cs m := by
  unfold stagingSlot
  rw [updAt_get]
  split <;> rfl

/-- The claims of staging commands, of the revocation list and of waiting reset commands. -/
def State.claims (s : State) : List Claim :=
  ((List.finRange 8).filterMap (stagingSlot s.contexts)).map (·, .bindDefault)
    ++ (s.revocations.flatMap RevEntry.slots).map (·, .revoke) ++ s.waitingResets.map (·, .resetMemoryPort)

theorem claims_slots (s : State) : s.claims.map Prod.fst = s.slotOwners := by
  simp only [State.claims, List.map_append, List.map_map]
  rw [show (Prod.fst ∘ fun k : RespIx => (k, CommandCode.bindDefault)) = id from rfl,
    show (Prod.fst ∘ fun k : RespIx => (k, CommandCode.revoke)) = id from rfl,
    show (Prod.fst ∘ fun k : RespIx => (k, CommandCode.resetMemoryPort)) = id from rfl]
  simp only [List.map_id]
  rfl

theorem mem_claims {s : State} {k : RespIx} {code : CommandCode} : (k, code) ∈ s.claims ↔
    ((∃ (n : Initiator) (p : Pending), s.contexts[n].rebind.pending? = some p ∧ p.slot = k) ∧ code = .bindDefault) ∨
      ((∃ e ∈ s.revocations, k ∈ e.own :: e.absorbed) ∧ code = .revoke) ∨
      (k ∈ s.waitingResets ∧ code = .resetMemoryPort) := by
  simp only [State.claims, List.mem_append, List.mem_map, List.mem_filterMap, List.mem_flatMap, List.mem_finRange,
    true_and, Prod.mk.injEq, stagingSlot, Option.map_eq_some_iff, RevEntry.slots, or_assoc]
  refine or_congr ?_ (or_congr ?_ ?_)
  · exact ⟨fun ⟨_, ⟨n, p, hp, hk⟩, he, hc⟩ => ⟨⟨n, p, hp, hk.trans he⟩, hc.symm⟩,
      fun ⟨⟨n, p, hp, hk⟩, hc⟩ => ⟨k, ⟨n, p, hp, hk⟩, rfl, hc.symm⟩⟩
  · exact ⟨fun ⟨_, ⟨e, he, hm⟩, hk, hc⟩ => ⟨⟨e, he, hk ▸ hm⟩, hc.symm⟩, fun ⟨⟨e, he, hm⟩, hc⟩ =>
      ⟨k, ⟨e, he, hm⟩, rfl, hc.symm⟩⟩
  · exact ⟨fun ⟨_, hm, hk, hc⟩ => ⟨hk ▸ hm, hc.symm⟩, fun ⟨hm, hc⟩ => ⟨k, hm, rfl, hc.symm⟩⟩

/-- The law of the owners, by claims. -/
theorem ownerLaw_iff {s : State} :
    OwnerLaw s ↔ Owned s.claims s.bank.slots ∧ (s.port = .ready → s.waitingResets = []) := by
  constructor
  · intro h
    refine ⟨⟨claims_slots s ▸ h.nodup, fun k hk => claims_slots s ▸ (h.reserved k).mpr hk, ?_⟩, h.idle⟩
    rintro ⟨k, code⟩ hc
    rcases mem_claims.mp hc with ⟨⟨n, p, hp, rfl⟩, rfl⟩ | ⟨⟨e, he, hk⟩, rfl⟩ | ⟨hk, rfl⟩
    · exact h.staging n p hp
    · exact h.revoking e he k hk
    · exact h.resetting k hk
  · rintro ⟨h, hidle⟩
    refine ⟨claims_slots s ▸ h.nodup, fun k => ⟨fun hk => ?_, fun hk => claims_slots s ▸ h.reserved k hk⟩,
      fun n p hp => h.holds (p.slot, .bindDefault) (mem_claims.mpr (.inl ⟨⟨n, p, hp, rfl⟩, rfl⟩)),
      fun e he k hk => h.holds (k, .revoke) (mem_claims.mpr (.inr (.inl ⟨⟨e, he, hk⟩, rfl⟩))),
      fun k hk => h.holds (k, .resetMemoryPort) (mem_claims.mpr (.inr (.inr ⟨hk, rfl⟩))), hidle⟩
    by_contra hr
    rw [← claims_slots] at hk
    exact h.not_mem (Bool.eq_false_iff.mpr hr) hk

/-! ### Claims under a change of one list -/

/-- The staging slots of two context tables are those of one initiator, and the same others, when the tables agree
on the others. -/
theorem stagingSlots_perm (cs cs' : Vector Context 8) (n : Initiator)
    (h : ∀ m, m ≠ n → stagingSlot cs' m = stagingSlot cs m) :
    ∃ others, ((List.finRange 8).filterMap (stagingSlot cs)).Perm ((stagingSlot cs n).toList ++ others) ∧
      ((List.finRange 8).filterMap (stagingSlot cs')).Perm ((stagingSlot cs' n).toList ++ others) := by
  have hsplit : (List.finRange 8).Perm (n :: (List.finRange 8).erase n) := List.perm_cons_erase (List.mem_finRange n)
  have hcons (g : Initiator → Option RespIx) :
      ((List.finRange 8).filterMap g).Perm ((g n).toList ++ ((List.finRange 8).erase n).filterMap g) := by
    refine (hsplit.filterMap g).trans ?_
    rw [List.filterMap_cons]
    cases g n <;> exact List.Perm.refl _
  refine ⟨_, hcons _, ?_⟩
  have hsame : ((List.finRange 8).erase n).filterMap (stagingSlot cs) =
      ((List.finRange 8).erase n).filterMap (stagingSlot cs') := by
    refine List.filterMap_congr fun m hm => (h m ?_).symm
    exact fun he => (List.Nodup.not_mem_erase (List.nodup_finRange 8)) (he ▸ hm)
  rw [hsame]
  exact hcons _

/-- A list of optional values splits into the values of two exclusive parts. -/
theorem filterMap_split {α β : Type} {g d a : α → Option β} : ∀ {l : List α},
    (∀ x ∈ l, (d x = none ∧ a x = g x) ∨ (d x = g x ∧ a x = none)) →
    (l.filterMap g).Perm (l.filterMap d ++ l.filterMap a)
  | [], _ => List.Perm.refl _
  | x :: l, h => by
    have ih := filterMap_split (l := l) fun y hy => h y (List.mem_cons_of_mem x hy)
    simp only [List.filterMap_cons]
    rcases h x List.mem_cons_self with ⟨hd, ha⟩ | ⟨hd, ha⟩ <;> rw [hd, ha] <;> cases g x
    · exact ih
    · exact (ih.cons _).trans List.perm_middle.symm
    · exact ih
    · exact ih.cons _

/-! ### The law over states -/

namespace OwnerLaw

variable {s t : State}

/-- The owners of a state whose blocks hold the same slots. -/
theorem congr (h : OwnerLaw s) (hstage : ∀ n, stagingSlot t.contexts n = stagingSlot s.contexts n)
    (hrev : t.revocations.flatMap RevEntry.slots = s.revocations.flatMap RevEntry.slots)
    (hwait : t.waitingResets = s.waitingResets) (hbank : t.bank.slots = s.bank.slots)
    (hport : t.port = .ready → s.port = .ready) : OwnerLaw t := by
  obtain ⟨ho, hi⟩ := ownerLaw_iff.mp h
  refine ownerLaw_iff.mpr ⟨?_, fun hp => hwait.trans (hi (hport hp))⟩
  have hclaims : t.claims = s.claims := by
    simp only [State.claims, funext hstage, hrev, hwait]
  rw [hclaims, hbank]
  exact ho

/-- The owners when no block's part but the bank's changed. -/
theorem of_bank (h : OwnerLaw s) (hbank : Owned s.claims t.bank.slots)
    (hcontexts : t.contexts = s.contexts := by rfl) (hrev : t.revocations = s.revocations := by rfl)
    (hwait : t.waitingResets = s.waitingResets := by rfl) (hport : t.port = s.port := by rfl) : OwnerLaw t := by
  refine ownerLaw_iff.mpr ⟨?_, fun hp => hwait.trans (h.idle (hport ▸ hp))⟩
  rw [State.claims, hcontexts, hrev, hwait]
  exact hbank

/-- The owners when nothing of theirs changed. -/
theorem of_eq (h : OwnerLaw s) (hcontexts : t.contexts = s.contexts := by rfl)
    (hrev : t.revocations = s.revocations := by rfl) (hwait : t.waitingResets = s.waitingResets := by rfl)
    (hbank : t.bank = s.bank := by rfl) (hport : t.port = s.port := by rfl) : OwnerLaw t :=
  h.congr (fun n => by rw [hcontexts]) (by rw [hrev]) hwait (by rw [hbank]) (fun hp => hport ▸ hp)

theorem owned (h : OwnerLaw s) : Owned s.claims s.bank.slots :=
  (ownerLaw_iff.mp h).1

/-- One context changed, and not its binding. -/
theorem of_updAt (h : OwnerLaw s) {n : Initiator} {f : Context → Context}
    (hcontexts : t.contexts = updAt s.contexts n f) (hf : ∀ c, (f c).rebind = c.rebind)
    (hrev : t.revocations = s.revocations := by rfl) (hwait : t.waitingResets = s.waitingResets := by rfl)
    (hbank : t.bank = s.bank := by rfl) (hport : t.port = s.port := by rfl) : OwnerLaw t := by
  refine h.congr (fun m => ?_) (by rw [hrev]) hwait (by rw [hbank]) (fun hp => hport ▸ hp)
  rw [hcontexts, stagingSlot_updAt, hf]
  split
  next he => rw [he]; rfl
  next => rfl

/-- A frame taken into a slot makes one claim on it. -/
theorem takes (h : OwnerLaw s) {f : Frame} {rest : List Frame} {k : RespIx} (ht : Takes s f rest k) :
    Owned ((k, f.code) :: s.claims) (s.deferred f rest k).bank.slots :=
  h.owned.reserve (by rw [ht.empty]; rfl) f.seq f.code

/-- A frame answered in its own slot leaves no claim. -/
theorem answered (h : OwnerLaw s) {f : Frame} {rest : List Frame} {k : RespIx} (ht : Takes s f rest k)
    (o : CmdOutcome) (p : List Byte) : OwnerLaw (s.answered f rest k o p) :=
  h.of_bank (h.owned.set_free (by rw [ht.empty]; rfl) rfl)

/-! ### Time -/

/-- The port becoming READY fills every waiting reset command's slot (R114). -/
theorem becomeReady (h : OwnerLaw s) : OwnerLaw s.becomeReady := by
  refine ownerLaw_iff.mpr ⟨?_, fun _ => rfl⟩
  have hended : (s.waitingResets.map fun k => (k, CommandCode.resetMemoryPort)).map Prod.fst =
      (s.waitingResets.map fun k => Fill.mk k .done []).map Fill.slot := by
    simp only [List.map_map]; rfl
  refine Owned.fills hended (h.owned.perm ?_)
  simp only [State.claims, State.becomeReady_contexts, State.becomeReady_revocations]
  rw [show s.becomeReady.waitingResets = [] from rfl, List.map_nil, List.append_nil]
  exact List.perm_append_comm

theorem endHold (h : OwnerLaw s) (dnReady : Bool) : OwnerLaw (s.endHold dnReady) := by
  unfold State.endHold
  split
  · split
    · have hawait : OwnerLaw { s with port := .awaitingReady } :=
        h.congr (fun _ => rfl) rfl rfl rfl (fun hp => nomatch hp)
      cases dnReady
      · exact hawait
      · exact hawait.becomeReady
    · exact h
  · exact h

theorem expireDrains (h : OwnerLaw s) : OwnerLaw s.expireDrains := by
  refine h.congr (fun n => ?_) rfl rfl rfl id
  have hexpire (r : Rebind) : r.expire.pending?.map Pending.slot = r.pending?.map Pending.slot := by
    unfold Rebind.expire
    split
    · split <;> rfl
    · rfl
  simp only [stagingSlot, State.expireDrains, State.logAll_contexts, Fin.getElem_fin, Vector.getElem_map, hexpire]

theorem expireStalls (h : OwnerLaw s) : OwnerLaw s.expireStalls := by
  refine h.congr (fun n => rfl) ?_ rfl rfl id
  have hslots (e : RevEntry) : e.giveNotice.slots = e.slots := by
    unfold RevEntry.giveNotice
    split <;> rfl
  simp only [State.expireStalls, State.logAll_revocations, List.flatMap_map, hslots]

theorem tickNow (h : OwnerLaw s) : OwnerLaw s.tickNow := by
  refine h.congr (fun n => ?_) ?_ s.tickNow_waitingResets (by rw [s.tickNow_bank]) fun hp => ?_
  · have htick (d : Nat) (r : Rebind) : (r.tick d).pending?.map Pending.slot = r.pending?.map Pending.slot := by
      cases r <;> rfl
    simp only [stagingSlot, State.tickNow, Fin.getElem_fin, Vector.getElem_map, htick]
  · have hslots (e : RevEntry) : (e.tick s.settings.stallNotice).slots = e.slots := by
      unfold RevEntry.tick
      split <;> rfl
    simp only [State.tickNow, List.flatMap_map, hslots]
  · have hp : s.port.tick = .ready := hp
    cases hs : s.port <;> rw [hs] at hp <;> first | rfl | cases hp

theorem kept : Kept OwnerLaw where
  pending _ _ h := h.of_eq
  counts _ h _ := h.of_eq
  holdEnds _ h := h.endHold
  responsesExpire _ h := h.of_eq
  drainsExpire _ h := h.expireDrains
  stallsExpire _ h := h.expireStalls
  ticks _ h := h.tickNow

/-! ### Reset and the link -/

/-- With no binding pending, no list entry and nothing waiting, and no slot reserved, the law holds. -/
theorem of_nothing (hpending : ∀ n, stagingSlot s.contexts n = none) (hrev : s.revocations = [])
    (hwait : s.waitingResets = []) (hbank : ∀ k : RespIx, s.bank.slots[k].isReserved = false) : OwnerLaw s := by
  refine ownerLaw_iff.mpr ⟨?_, fun _ => hwait⟩
  have hclaims : s.claims = [] := by
    simp only [State.claims, funext hpending, hrev, hwait]
    simp
  rw [hclaims]
  exact ⟨List.nodup_nil, fun k hk => absurd hk (by rw [hbank k]; exact Bool.false_ne_true), fun c hc => nomatch hc⟩

theorem assertReset (s : State) : OwnerLaw s.assertReset := by
  refine of_nothing (fun n => ?_) rfl rfl fun k => ?_
  · simp [stagingSlot, State.assertReset, State.reset, resetContext, Rebind.pending?]
  · simp [State.assertReset, State.reset, RespSlot.isReserved]

theorem releaseReset (s : State) (bootEn : Bool) (bootId : Initiator) (csLow : Bool) (hr : s.resetn = false) :
    OwnerLaw (s.releaseReset bootEn bootId csLow) := by
  unfold State.releaseReset
  rw [if_neg (by simp [hr])]
  refine of_nothing (fun n => ?_) rfl rfl fun k => ?_
  · simp only [stagingSlot, Fin.getElem_fin, Vector.getElem_ofFn, bootContext]
    split <;> rfl
  · simp [State.assertReset, State.reset, RespSlot.isReserved]

/-- A FETCH empties a filled slot, on which no block has a claim (R176). -/
theorem release (h : OwnerLaw s) (k : RespIx) (clocked : Nat) : Owned s.claims (s.bank.release k clocked).slots := by
  unfold SlotBank.release
  split
  next f hf =>
    split
    · exact h.owned.set_free (by rw [hf]; rfl) rfl
    · exact h.owned
  next => exact h.owned

theorem csRises (h : OwnerLaw s) (a : Session) : OwnerLaw (s.csRises a) := by
  unfold State.csRises
  dsimp only
  split
  · exact h.of_eq
  · exact h.of_eq
  · exact h.of_eq
  · exact h.of_eq
  next k clocked _ => exact h.of_bank (h.release k clocked)

theorem spiEdge (h : OwnerLaw s) (e : SpiEdge) : OwnerLaw (s.spiEdge e) := by
  cases hr : s.resetn with
  | false =>
    obtain ⟨session, bits, -, he, -⟩ := spiEdge_low e hr
    rw [he]
    exact h.of_eq
  | true =>
    rcases spiEdge_cases e hr with he | ⟨-, -, he⟩ | ⟨mosi, a, -, -, -, he⟩ | ⟨a, -, -, -, he⟩ |
      ⟨a, -, -, he⟩ <;> rw [he]
    · exact h
    · exact h.of_eq
    · exact h.of_eq
    · unfold State.sclkFalls
      split <;> exact h.of_eq
    · exact h.csRises a

theorem runEdges (h : OwnerLaw s) (own : State → SpiEdge → Bool) (edges : List SpiEdge) :
    OwnerLaw (Machine.runEdges own edges s) :=
  runEdges_keeps (fun _ e hu _ => hu.spiEdge e) edges s h

/-! ### Admission and delivery -/

theorem enter (h : OwnerLaw s) (n : Initiator) (u : Tag) (e : Entry) : OwnerLaw (s.enter n u e) :=
  h.of_updAt (enter_contexts s n u e) fun _ => rfl

theorem refuse (h : OwnerLaw s) (n : Initiator) (r : Request) (u : Tag) (kind : EventKind) (window : Option SlotIx) :
    OwnerLaw (s.refuse n r u kind window) := by
  have henter := h.enter n u (.refused n r.kind r.len)
  unfold State.refuse
  dsimp only
  split
  · exact henter.of_updAt (n := n) (f := fun c => { c with state := .closed }) rfl fun _ => rfl
  · exact henter.of_eq

/-- A binding that ends leaves its claim to be filled. -/
theorem unbind (h : OwnerLaw s) {n : Initiator} {p : Pending} (f : Context → Context)
    (hp : s.contexts[n].rebind.pending? = some p) (hf : stagingSlot (updAt s.contexts n f) n = none) :
    Owned ((p.slot, .bindDefault) :: (s.updContext n f).claims) s.bank.slots := by
  obtain ⟨others, hold, hnew⟩ := stagingSlots_perm s.contexts (updAt s.contexts n f) n fun m hm => by
    unfold stagingSlot; rw [updAt_other _ _ _ _ hm]
  rw [stagingSlot_some hp] at hold
  rw [hf] at hnew
  refine h.owned.perm ?_
  simp only [State.claims, State.updContext_revocations, State.updContext_waitingResets]
  rw [← List.cons_append, ← List.cons_append]
  refine (List.Perm.append_right _ (List.Perm.append_right _ ?_))
  exact (hold.map _).trans ((hnew.symm.map _).cons _)

theorem commit (h : OwnerLaw s) {n : Initiator} {p : Pending} (hp : s.contexts[n].rebind.pending? = some p) :
    OwnerLaw (s.commit n p) := by
  refine ownerLaw_iff.mpr ⟨?_, h.idle⟩
  refine Owned.fill (f := ⟨p.slot, .done, []⟩) (code := .bindDefault) ?_
  refine h.unbind (fun c => { c with current := p.target, rebind := .none }) hp ?_
  rw [stagingSlot_updAt, if_pos rfl]
  rfl

theorem deliverHead (h : OwnerLaw s) (n : Initiator) (u : Tag) : OwnerLaw (s.deliverHead n u) := by
  have hup : OwnerLaw (s.handUp n u) :=
    h.of_updAt (handUp_contexts s n u) fun _ => rfl
  unfold State.deliverHead
  dsimp only
  split
  next p hdue => exact hup.commit (commitDue_some.mp hdue).2
  next => exact hup

theorem timely (h : OwnerLaw s) (u : Tag) (x : Txn) (status : DnStatus) (data : List Beat) :
    OwnerLaw (s.timely u x status data) := by
  unfold State.timely
  dsimp only
  split <;> split <;> exact h.of_eq

/-! ### Revocation -/

/-- The free of a list entry ends the claims of its slots (R146). -/
theorem freeSubtree_bank (s : State) (pos : Nat) (e : RevEntry) : (s.freeSubtree pos e).bank =
    (e.absorbed.map (Fill.mk · .revokedByAncestor []) ++
      [Fill.mk e.own .done [BitVec.ofNat 8 (coveredSlots s.windows e.root.index).length]]).foldl
        SlotBank.fill s.bank := by
  unfold State.freeSubtree
  rfl

theorem freeSubtree (h : OwnerLaw s) {pos : Nat} {e : RevEntry} (he : s.revocations[pos]? = some e) :
    OwnerLaw (s.freeSubtree pos e) := by
  obtain ⟨hlt, he⟩ := List.getElem?_eq_some_iff.mp he
  refine ownerLaw_iff.mpr ⟨?_, fun hp => by simpa using h.idle (by simpa using hp)⟩
  rw [freeSubtree_bank]
  refine Owned.fills (ended := (e.absorbed ++ [e.own]).map fun k => (k, CommandCode.revoke)) ?_ (h.owned.perm ?_)
  · simp [Function.comp_def]
  · have hlist : s.revocations.Perm (e :: s.revocations.eraseIdx pos) := by
      rw [← he]; exact (List.getElem_cons_eraseIdx_perm hlt).symm
    have hslots : (s.revocations.flatMap RevEntry.slots).Perm
        ((e.absorbed ++ [e.own]) ++ (s.revocations.eraseIdx pos).flatMap RevEntry.slots) := by
      refine (hlist.flatMap_right _).trans ?_
      rw [List.flatMap_cons]
      exact List.Perm.append_right _ (List.perm_append_singleton _ _).symm
    have hfreed : (s.freeSubtree pos e).claims =
        ((List.finRange 8).filterMap (stagingSlot s.contexts)).map (·, CommandCode.bindDefault)
          ++ ((s.revocations.eraseIdx pos).flatMap RevEntry.slots).map (·, CommandCode.revoke)
          ++ s.waitingResets.map (·, CommandCode.resetMemoryPort) := by
      simp only [State.claims, State.freeSubtree_contexts, State.freeSubtree_waitingResets]
      rfl
    rw [hfreed, ← List.append_assoc, ← List.append_assoc]
    refine List.Perm.append_right _ ((List.Perm.append_left _ (hslots.map _)).trans ?_)
    rw [List.map_append]
    exact List.perm_append_comm_assoc _ _ _ |>.trans (by rw [List.append_assoc])

/-- What an acceptance absorbs stays claimed, by the new entry (R142). -/
theorem acceptInto_slots (revs : List RevEntry) (m : BitVec 64) (root : Handle) (k : RespIx) :
    ((acceptInto revs m root k).flatMap RevEntry.slots).Perm (k :: revs.flatMap RevEntry.slots) := by
  have habsorbed (es : List RevEntry) : (absorbedSlots es).Perm (es.flatMap RevEntry.slots) :=
    List.Perm.flatMap_left es fun e _ => List.perm_append_singleton _ _
  have hsplit : (revs.filter (RevEntry.absorbedBy m) ++ revs.filter (fun e => !e.absorbedBy m)).Perm revs :=
    List.filter_append_perm _ revs
  unfold acceptInto
  rw [List.flatMap_append, List.flatMap_singleton, RevEntry.slots]
  refine List.perm_middle.trans (List.Perm.cons k ?_)
  refine (List.Perm.append_left _ (habsorbed _)).trans (List.perm_append_comm.trans ?_)
  rw [← List.flatMap_append]
  exact hsplit.flatMap_right _

theorem afterRevoke_staging (m : BitVec 64) (c : Context) :
    ((c.discarded m).map Pending.slot = none ∧
        (c.afterRevoke m).rebind.pending?.map Pending.slot = c.rebind.pending?.map Pending.slot) ∨
      ((c.discarded m).map Pending.slot = c.rebind.pending?.map Pending.slot ∧
        (c.afterRevoke m).rebind.pending?.map Pending.slot = none) := by
  cases hd : c.discarded m with
  | none => exact .inl ⟨rfl, by simp [Context.afterRevoke, hd]⟩
  | some p =>
    refine .inr ⟨?_, by simp [Context.afterRevoke, hd, Rebind.pending?]⟩
    unfold Context.discarded at hd
    split at hd
    next q hq =>
      split at hd
      · cases hd; rw [hq]
      · cases hd
    next => cases hd

/-- An acceptance in a slot reserved for it: the discarded bindings' claims end, the slot's own is the new
entry's (R72, R142, R180). -/
theorem acceptRevoke (root : Handle) (k : RespIx) (hidle : s.port = .ready → s.waitingResets = [])
    (h : Owned ((k, .revoke) :: s.claims) s.bank.slots) : OwnerLaw (s.acceptRevoke root k) := by
  set m := subtreeOf s.windows root.index with hm
  refine ownerLaw_iff.mpr ⟨?_, fun hp => by simpa using hidle (by simpa using hp)⟩
  refine Owned.fills
    (ended := ((List.finRange 8).filterMap fun n => (s.contexts[n].discarded m).map Pending.slot).map
      (·, CommandCode.bindDefault)) ?_ (h.perm ?_)
  · simp only [List.map_filterMap, Function.comp_def, Option.map_map, discardFill]
    rfl
  · have hstaging : ((List.finRange 8).filterMap (stagingSlot s.contexts)).Perm
        (((List.finRange 8).filterMap fun n => (s.contexts[n].discarded m).map Pending.slot) ++
          (List.finRange 8).filterMap (stagingSlot (s.acceptRevoke root k).contexts)) := by
      refine filterMap_split fun n _ => ?_
      have hafter : (s.acceptRevoke root k).contexts[n] = s.contexts[n].afterRevoke m := by
        simp [acceptRevoke_contexts, ← hm]
      unfold stagingSlot
      rw [hafter]
      exact afterRevoke_staging m s.contexts[n]
    have hslots := acceptInto_slots s.revocations m root k
    simp only [State.claims, State.acceptRevoke_waitingResets, acceptRevoke_revocations, ← hm]
    rw [← List.append_assoc, ← List.append_assoc, ← List.map_append, ← List.cons_append]
    refine List.Perm.append_right _ ?_
    have hrev := (hslots.map fun k => (k, CommandCode.revoke)).symm
    rw [List.map_cons] at hrev
    exact List.perm_middle.symm.trans ((List.Perm.append (hstaging.map _) hrev))

/-! ### Bindings and port resets -/

theorem stage (n : Initiator) (k : RespIx) (target : Option Handle) (hnone : s.contexts[n].rebind = .none)
    (hidle : s.port = .ready → s.waitingResets = []) (h : Owned ((k, .bindDefault) :: s.claims) s.bank.slots) :
    OwnerLaw (s.stage n k target) := by
  have hstaged (f : Context → Context) (hf : stagingSlot (updAt s.contexts n f) n = some k) :
      OwnerLaw (s.updContext n f) := by
    obtain ⟨others, hold, hnew⟩ := stagingSlots_perm s.contexts (updAt s.contexts n f) n fun m hm => by
      unfold stagingSlot; rw [updAt_other _ _ _ _ hm]
    rw [stagingSlot_none hnone] at hold
    rw [hf] at hnew
    refine ownerLaw_iff.mpr ⟨h.perm ?_, hidle⟩
    simp only [State.claims, State.updContext_revocations, State.updContext_waitingResets]
    rw [← List.cons_append, ← List.cons_append]
    refine List.Perm.append_right _ (List.Perm.append_right _ ?_)
    have hbefore := (hold.map fun k => (k, CommandCode.bindDefault)).cons (k, CommandCode.bindDefault)
    exact hbefore.trans (hnew.symm.map fun k => (k, CommandCode.bindDefault))
  unfold State.stage
  dsimp only
  split
  · have hfence := hstaged (fun c => { c with rebind := .fencing ⟨target, k, 0, false⟩ })
      (by rw [stagingSlot_updAt, if_pos rfl]; rfl)
    exact hfence.of_eq
  · exact hstaged (fun c => { c with rebind := .staged ⟨target, k, 0, false⟩ })
      (by rw [stagingSlot_updAt, if_pos rfl]; rfl)

theorem replaceBinding (n : Initiator) (k : RespIx) (target : Option Handle) {old : Pending}
    (hold : s.contexts[n].rebind.pending? = some old) (hidle : s.port = .ready → s.waitingResets = [])
    (h : Owned ((k, .bindDefault) :: s.claims) s.bank.slots) : OwnerLaw (s.replaceBinding n k target old) := by
  refine ownerLaw_iff.mpr ⟨?_, hidle⟩
  refine Owned.fill (f := ⟨old.slot, .replaced, []⟩) (code := .bindDefault) (h.perm ?_)
  obtain ⟨others, hbefore, hafter⟩ :=
    stagingSlots_perm s.contexts (s.replaceBinding n k target old).contexts n fun m hm => by
      unfold stagingSlot
      rw [show (s.replaceBinding n k target old).contexts[m] = s.contexts[m] from updAt_other _ _ _ _ hm]
  rw [stagingSlot_some hold] at hbefore
  have hnew : stagingSlot (s.replaceBinding n k target old).contexts n = some k := by
    simp only [stagingSlot, State.replaceBinding, State.fillAll_contexts, State.updContext, updAt_self]
    cases hr : s.contexts[n].rebind <;> rw [hr] at hold <;> first | rfl | cases hold
  rw [hnew] at hafter
  simp only [State.claims]
  rw [← List.cons_append, ← List.cons_append, ← List.cons_append, ← List.cons_append]
  refine List.Perm.append_right _ (List.Perm.append_right _ ?_)
  refine ((hbefore.map _).cons _).trans ?_
  exact (List.Perm.swap _ _ _).trans ((hafter.symm.map fun k => (k, CommandCode.bindDefault)).cons _)

/-- A reset command's slot waits in the port's list (R112). -/
theorem waits (k : RespIx) (hport : t.port ≠ .ready) (hcontexts : t.contexts = s.contexts)
    (hrev : t.revocations = s.revocations) (hwait : t.waitingResets = s.waitingResets ++ [k])
    (hbank : t.bank.slots = s.bank.slots) (h : Owned ((k, .resetMemoryPort) :: s.claims) s.bank.slots) :
    OwnerLaw t := by
  refine ownerLaw_iff.mpr ⟨?_, fun hp => absurd hp hport⟩
  rw [hbank]
  refine h.perm ?_
  simp only [State.claims, hcontexts, hrev, hwait, List.map_append, List.map_cons, List.map_nil]
  rw [← List.append_assoc]
  exact (List.perm_append_singleton _ _).symm

theorem startReset_port (s : State) : s.startReset.port = .holding 0 := by
  unfold State.startReset
  rfl

theorem startsReset (k : RespIx) (h : Owned ((k, .resetMemoryPort) :: s.claims) s.bank.slots) :
    OwnerLaw { s.startReset with waitingResets := s.waitingResets ++ [k] } :=
  waits k (by rw [startReset_port]; decide) (by simp only [State.startReset_contexts])
    (by simp only [State.startReset_revocations]) rfl (by simp only [State.startReset_bank]) h

/-! ### Every effect -/

theorem effects (h : OwnerLaw s) : Effects s fun _ t => OwnerLaw t where
  idle _ := h
  asserts := assertReset s
  releases bootEn bootId csLow hr := releaseReset s bootEn bootId csLow hr
  ticks := (kept.settle h).tickNow
  arrives _ _ _ _ := h.of_eq
  admits n u r _ ix _ _ _ _ :=
    ((h.of_eq (t := s.leaveLane n)).enter n u (.queued ⟨n, ix, r.kind, r.addr, r.len⟩ r.data)).of_eq
  refuses n u r _ kind window _ _ _ _ := (h.of_eq (t := s.leaveLane n)).refuse n r u kind window
  issues _ _ _ _ _ _ _ := h.of_eq
  completes u x _ _ status data _ _ := h.timely u x status data
  late _ _ _ _ _ _ _ := h.of_eq
  strays _ _ _ := h.of_eq
  responsesExpire := h.of_eq
  delivers _ _ n u _ _ _ _ _ := h.deliverHead n u
  drainsExpire := h.expireDrains
  stallsExpire := h.expireStalls
  frees _ _ he _ := h.freeSubtree he
  holdEnds dnReady := h.endHold dnReady
  becomesReady _ := h.becomeReady
  commandEdges edges := h.runEdges _ edges
  typeEdges := h.runEdges _ _
  fetchEdges edges := h.runEdges _ edges
  answers _ _ _ o p ht := h.answered ht o p
  derives _ _ _ _ _ p ht _ _ := (h.answered ht .done p).of_eq
  shrinks _ _ _ _ _ ht _ _ := (h.answered ht .done []).of_eq
  accepts f rest k g ht hc _ := acceptRevoke (s := s.deferred f rest k) g k h.idle (hc ▸ h.takes ht)
  replaces f rest k n target old ht hc _ hold :=
    replaceBinding (s := s.deferred f rest k) n k target hold h.idle (hc ▸ h.takes ht)
  binds _ _ _ n target ht _ _ _ _ :=
    (h.answered ht .done []).of_updAt (n := n) (f := fun c => { c with current := target }) rfl fun _ => rfl
  stages f rest k n target ht hc _ hnone _ :=
    stage (s := s.deferred f rest k) n k target hnone h.idle (hc ▸ h.takes ht)
  setsInitiator _ _ _ n st po ht _ :=
    (h.answered ht .done []).of_updAt (n := n) (f := fun c => { c with state := st, policy := po }) rfl fun _ => rfl
  startsReset f rest k ht hc _ :=
    startsReset (s := s.deferred f rest k) k (hc ▸ h.takes ht)
  joinsReset f rest k ht hc hp := waits (s := s.deferred f rest k) k hp rfl rfl rfl rfl (hc ▸ h.takes ht)
  setsControl _ _ _ c ht _ _ := (h.answered ht .done c.report).of_eq
  readsEvent _ _ _ r _ ht _ _ := (h.answered ht .done r.report).of_eq

end OwnerLaw

/-- Settles O6: every effect leaves exactly one claim on each reserved slot. -/
theorem stepKeepsOwnerLaw : Obligations.StepKeepsOwnerLaw := by
  unfold Obligations.StepKeepsOwnerLaw
  exact fun _ _ h hx => OwnerLaw.kept.step (fun _ hs => hs.effects) h hx

end Sys2Proof.Machine

/-! SUPPORT. The in-flight counts (R19 to R23): the entries that count under a window, and what each effect does
with them and with the window's own count. -/

namespace Sys2Proof.Machine

/- One proof after another: a thread for each at once is more than a machine holds. -/
set_option Elab.async false

/-! ### Edges of the wires touch the link alone -/

/-- `t` differs from `s` in the link's own fields at most. -/
def LinkOnly (s t : State) : Prop :=
  t = { s with
        session := t.session, verdict := t.verdict, queue := t.queue, bank := t.bank, miso := t.miso
        freeDraws := t.freeDraws }

namespace LinkOnly

variable {s t : State} (h : LinkOnly s t)

include h

theorem lanes : t.lanes = s.lanes := by rw [h]
theorem windows : t.windows = s.windows := by rw [h]
theorem contexts : t.contexts = s.contexts := by rw [h]
theorem tracker : t.tracker = s.tracker := by rw [h]
theorem readStore : t.readStore = s.readStore := by rw [h]
theorem deliveryLists : t.deliveryLists = s.deliveryLists := by rw [h]
theorem port : t.port = s.port := by rw [h]
theorem forward : t.forward = s.forward := by rw [h]
theorem revocations : t.revocations = s.revocations := by rw [h]
theorem log : t.log = s.log := by rw [h]
theorem divider : t.divider = s.divider := by rw [h]
theorem interval : t.interval = s.interval := by rw [h]
theorem settings : t.settings = s.settings := by rw [h]
theorem resetn : t.resetn = s.resetn := by rw [h]
theorem pending : t.pending = s.pending := by rw [h]

theorem trans {u : State} (h₂ : LinkOnly t u) : LinkOnly s u := by
  unfold LinkOnly at *
  rw [h₂, h]

end LinkOnly

theorem spiEdge_linkOnly (s : State) (e : SpiEdge) : LinkOnly s (s.spiEdge e) := by
  cases hr : s.resetn with
  | false =>
    obtain ⟨session, bits, -, h, -⟩ := spiEdge_low e hr
    rw [h]
    rfl
  | true =>
    rcases spiEdge_cases e hr with h | ⟨-, -, h⟩ | ⟨mosi, a, -, -, -, h⟩ | ⟨a, -, -, -, h⟩ | ⟨a, -, -, h⟩ <;> rw [h]
    · rfl
    · rfl
    · rfl
    · unfold State.sclkFalls
      split <;> rfl
    · unfold State.csRises
      dsimp only
      split <;> rfl

theorem runEdges_linkOnly (own : State → SpiEdge → Bool) (edges : List SpiEdge) (s : State) :
    LinkOnly s (runEdges own edges s) :=
  runEdges_keeps (fun u e (h : LinkOnly s u) _ => h.trans (spiEdge_linkOnly u e)) edges s rfl

/-! ### Counting entries -/

theorem heldBy_congr {tr tr' : Vector Entry 32} (h : ∀ τ : Tag, tr'[τ].holds = tr[τ].holds) (i : SlotIx) :
    heldBy tr' i = heldBy tr i := by
  simp only [heldBy, h]

/-- One entry is replaced: it counts no more, and the new one counts. -/
theorem heldBy_set (tr : Vector Entry 32) (u : Tag) (e : Entry) (i : SlotIx) :
    heldBy (tr.set u e) i + (if tr[u].holds = some i then 1 else 0) =
      heldBy tr i + (if e.holds = some i then 1 else 0) := by
  have hsplit (v : Vector Entry 32) : heldBy v i = (if v[u].holds = some i then 1 else 0) +
      ((List.finRange 32).erase u).countP fun t => v[t].holds == some i := by
    unfold heldBy
    rw [(List.perm_cons_erase (List.mem_finRange u)).countP_eq, List.countP_cons, Nat.add_comm]
    simp only [beq_iff_eq]
  have hothers : (((List.finRange 32).erase u).countP fun t => (tr.set u e)[t].holds == some i) =
      ((List.finRange 32).erase u).countP fun t => tr[t].holds == some i := by
    refine List.countP_congr fun t ht => ?_
    have hne : t ≠ u := fun he => (List.Nodup.not_mem_erase (List.nodup_finRange 32)) (he ▸ ht)
    rw [entry_set, if_neg hne]
  rw [hsplit, hsplit tr, hothers, entry_set, if_pos rfl]
  omega

theorem heldBy_eq_zero {tr : Vector Entry 32} (h : ∀ τ : Tag, tr[τ].holds = none) (i : SlotIx) : heldBy tr i = 0 := by
  rw [heldBy, List.countP_eq_zero]
  intro τ _
  rw [h τ]
  exact Bool.false_ne_true

@[simp] theorem Entry.holds_expire (e : Entry) : e.expire.holds = e.holds := by
  unfold Entry.expire
  split <;> rfl

@[simp] theorem Entry.holds_tick (setting : Nat) (e : Entry) : (e.tick setting).holds = e.holds := by
  cases e <;> rfl

@[simp] theorem Entry.holds_portReset (e : Entry) : e.portReset.holds = none := by
  cases e <;> rfl

/-- A delivery changes no count: an EXPIRED entry with late-pending set counts on as ORPHANED (R22). -/
theorem Entry.holds_afterDelivery {e : Entry} (h : e.deliverable = true) : e.afterDelivery.holds = e.holds := by
  cases e with
  | refused n k l => rfl
  | done x o => rfl
  | expired x late => cases late <;> rfl
  | _ => cases h

/-! ### A slot's count -/

theorem inFlight_mapWindow (f : Window → Window) (v : WindowSlot) :
    (v.mapWindow f).inFlight = (v.occ.window?.map fun w => (f w).inFlight).getD 0 := by
  cases h : v.occ <;> simp [WindowSlot.mapWindow, WindowSlot.inFlight, Occupancy.window?, h]

theorem inFlight_eq (v : WindowSlot) : v.inFlight = (v.occ.window?.map Window.inFlight).getD 0 := by
  unfold WindowSlot.inFlight
  cases v.occ.window? <;> rfl

theorem inFlight_mapWindow_same {f : Window → Window} (hf : ∀ w, (f w).inFlight = w.inFlight) (v : WindowSlot) :
    (v.mapWindow f).inFlight = v.inFlight := by
  rw [inFlight_mapWindow, inFlight_eq]
  simp only [hf]

theorem inFlight_sub (k : Nat) (v : WindowSlot) : (v.mapWindow (subInFlight k)).inFlight = v.inFlight - k := by
  rw [inFlight_mapWindow, inFlight_eq]
  cases v.occ.window? <;> simp [subInFlight]

theorem inFlight_add {v : WindowSlot} {w : Window} (h : v.occ.window? = some w) :
    (v.mapWindow addInFlight).inFlight = v.inFlight + 1 := by
  rw [inFlight_mapWindow, inFlight_eq, h]
  rfl

theorem inFlight_free {v : WindowSlot} (h : v.occ = .free) : v.inFlight = 0 := by
  rw [inFlight_eq, h]
  rfl

theorem inFlight_markSlot (m : BitVec 64) (root i : SlotIx) (v : WindowSlot) :
    (markSlot m root i v).inFlight = v.inFlight := by
  unfold markSlot
  split
  · cases h : v.occ <;> simp [WindowSlot.inFlight, Occupancy.window?, h]
  · rfl

/-- What is admitted is admitted under a window that exists (R40). -/
theorem judge_admitted_window {s : State} {n : Initiator} {r : Request} {ix : SlotIx}
    (h : s.judge n r = .admitted ix) : ∃ w, s.windows[ix].occ.window? = some w := by
  have against {i : SlotIx} (h : s.judgeAgainst r i = .admitted ix) : ∃ w, s.windows[ix].occ.window? = some w := by
    unfold State.judgeAgainst at h
    split at h
    · cases h
    next w hw =>
      split_ifs at h
      cases h
      exact ⟨w, hw⟩
  unfold State.judge at h
  split_ifs at h
  split at h
  · unfold State.judgeHandle at h
    split_ifs at h
    split at h
    · cases h
    · cases h
    · split_ifs at h
      exact against h
  · split at h
    · cases h
    · exact against h

/-! ### The law over effects -/

/-! ### The reset contents -/

theorem replicate_get {α : Type} {n : Nat} (v : α) (i : Fin n) : (Vector.replicate n v)[i] = v :=
  Vector.getElem_replicate i.isLt

/-- At reset the root alone is a window. -/
theorem resetWindows_get (i : SlotIx) :
    resetWindows[i] = if i = 0 then ⟨0#8, .live rootWindow⟩ else ⟨0#8, .free⟩ := by
  refine (updAt_get (Vector.replicate 64 (⟨0#8, .free⟩ : WindowSlot)) 0 i fun _ => ⟨0#8, .live rootWindow⟩).trans ?_
  rw [replicate_get]

namespace CountLaw

variable {s t : State}

theorem congr (h : CountLaw s) (hwindows : ∀ i : SlotIx, t.windows[i].inFlight = s.windows[i].inFlight)
    (htracker : ∀ τ : Tag, t.tracker[τ].holds = s.tracker[τ].holds) : CountLaw t := by
  intro i
  rw [hwindows, h i, heldBy_congr htracker]

theorem of_eq (h : CountLaw s) (hwindows : t.windows = s.windows := by rfl)
    (htracker : t.tracker = s.tracker := by rfl) : CountLaw t :=
  h.congr (fun i => by rw [hwindows]) fun τ => by rw [htracker]

/-- Windows change, and not their counts. -/
theorem of_windows (h : CountLaw s) (hwindows : ∀ i : SlotIx, t.windows[i].inFlight = s.windows[i].inFlight)
    (htracker : t.tracker = s.tracker := by rfl) : CountLaw t :=
  h.congr hwindows fun τ => by rw [htracker]

/-- One entry becomes another that counts under the same window, or as little. -/
theorem of_set (h : CountLaw s) {u : Tag} {e : Entry} (he : e.holds = s.tracker[u].holds)
    (htracker : t.tracker = s.tracker.set u e := by rfl) (hwindows : t.windows = s.windows := by rfl) :
    CountLaw t := by
  refine h.congr (fun i => by rw [hwindows]) fun τ => ?_
  rw [htracker, entry_set]
  split
  next hτ => rw [he, hτ]
  next => rfl

/-- An entry that counted counts no more, and its window's count falls (R21). -/
theorem of_release (h : CountLaw s) {u : Tag} {e : Entry} {ix : SlotIx} (hold : s.tracker[u].holds = some ix)
    (hnew : e.holds = none) (htracker : t.tracker = s.tracker.set u e)
    (hwindows : t.windows = updAt s.windows ix (WindowSlot.mapWindow (subInFlight 1))) : CountLaw t := by
  intro i
  have hset := heldBy_set s.tracker u e i
  rw [hold, hnew] at hset
  rw [hwindows, htracker, updAt_get]
  split
  next hi =>
    subst hi
    rw [inFlight_sub, h i]
    simp at hset
    omega
  next hi =>
    rw [h i]
    simpa [Ne.symm hi] using hset.symm

theorem expireResponses (h : CountLaw s) : CountLaw s.expireResponses :=
  h.congr (fun _ => rfl) fun τ => by simp [State.expireResponses]

theorem tickNow (h : CountLaw s) : CountLaw s.tickNow :=
  h.congr (fun _ => by rw [s.tickNow_windows]) fun τ => by simp [State.tickNow]

theorem endHold (h : CountLaw s) (dnReady : Bool) : CountLaw (s.endHold dnReady) := by
  unfold State.endHold
  split
  · split
    · cases dnReady <;> exact h.of_eq
    · exact h
  · exact h

theorem kept : Kept CountLaw where
  pending _ _ h := h.of_eq
  counts _ h _ := h.of_eq
  holdEnds _ h := h.endHold
  responsesExpire _ h := h.expireResponses
  drainsExpire _ h := h.of_eq
  stallsExpire _ h := h.of_eq
  ticks _ h := h.tickNow

/-- At reset no entry counts, and no window has a count. -/
theorem of_reset (hwindows : t.windows = resetWindows) (htracker : t.tracker = Vector.replicate 32 .free) :
    CountLaw t := by
  intro i
  rw [hwindows, htracker, heldBy_eq_zero (fun τ => by simp [Entry.holds])]
  rw [resetWindows_get]
  split <;> rfl

theorem releaseReset (s : State) (bootEn : Bool) (bootId : Initiator) (csLow : Bool) (hr : s.resetn = false) :
    CountLaw (s.releaseReset bootEn bootId csLow) := by
  unfold State.releaseReset
  rw [if_neg (by simp [hr])]
  exact of_reset rfl rfl

theorem runEdges (h : CountLaw s) (own : State → SpiEdge → Bool) (edges : List SpiEdge) :
    CountLaw (Machine.runEdges own edges s) :=
  h.of_eq (runEdges_linkOnly own edges s).windows (runEdges_linkOnly own edges s).tracker

/-- An admitted take raises the count of the window it is under (R20). -/
theorem admits (h : CountLaw s) {n : Initiator} {u : Tag} {r : Request} {ix : SlotIx}
    (hfree : s.tracker[u] = .free) (hjudge : s.judge n r = .admitted ix) :
    CountLaw ((s.leaveLane n).enterAdmitted n r u ix) := by
  obtain ⟨w, hw⟩ := judge_admitted_window hjudge
  intro i
  have hset := heldBy_set s.tracker u (.queued ⟨n, ix, r.kind, r.addr, r.len⟩ r.data) i
  rw [hfree] at hset
  change (updAt s.windows ix (WindowSlot.mapWindow addInFlight))[i].inFlight =
    heldBy (s.tracker.set u (.queued ⟨n, ix, r.kind, r.addr, r.len⟩ r.data)) i
  simp only [Entry.holds, Option.some.injEq] at hset
  rw [updAt_get]
  split
  next hi =>
    subst hi
    rw [inFlight_add hw, h i]
    simpa using hset.symm
  next hi =>
    rw [h i]
    simpa [Ne.symm hi] using hset.symm

theorem refuses (h : CountLaw s) {n : Initiator} {u : Tag} {r : Request} {kind : EventKind} {window : Option SlotIx}
    (hfree : s.tracker[u] = .free) : CountLaw ((s.leaveLane n).refuse n r u kind window) :=
  h.of_set (u := u) (e := .refused n r.kind r.len) (by rw [hfree]; rfl)
    (refuse_tracker (s.leaveLane n) n r u kind window).1 (refuse_windows (s.leaveLane n) n r u kind window)

theorem timely (h : CountLaw s) {u : Tag} {x : Txn} {e : Nat} {d : Bool} (hu : s.tracker[u] = .issued x e d)
    (status : DnStatus) (data : List Beat) : CountLaw (s.timely u x status data) := by
  obtain ⟨⟨o, ht⟩, -⟩ := timely_tracker s u x status data
  exact h.of_release (by rw [hu]; rfl) rfl ht (timely_windows s u x status data)

theorem late (h : CountLaw s) {u : Tag} {x : Txn} {after : Entry}
    (hu : s.tracker[u] = .expired x true ∧ after = .expired x false ∨ s.tracker[u] = .orphaned x ∧ after = .free) :
    CountLaw (s.late u x after) := by
  rcases hu with ⟨hu, rfl⟩ | ⟨hu, rfl⟩
  · exact h.of_release (by rw [hu]; rfl) rfl rfl (late_windows s u x _)
  · exact h.of_release (by rw [hu]; rfl) rfl rfl (late_windows s u x _)

/-- A free touches no count: those of the windows freed are 0 (R145, R146). -/
theorem freeSubtree (h : CountLaw s) {pos : Nat} {e : RevEntry} (hdrained : drainSum s.windows e.root.index = 0) :
    CountLaw (s.freeSubtree pos e) := by
  refine h.of_windows (fun i => ?_) (s.freeSubtree_tracker pos e)
  rw [freeSubtree_windows, Fin.getElem_fin, Vector.getElem_ofFn]
  change (freedSlot s.windows e.root.index i).inFlight = s.windows[i].inFlight
  unfold freedSlot
  split
  next hcovered => rw [inFlight_of_drained hcovered hdrained]; rfl
  next =>
    split
    · exact inFlight_mapWindow_same (by intro _; rfl) _
    · rfl

/-- An allocation puts a window with the count 0 into a FREE slot (R125). -/
theorem allocate (h : CountLaw s) {plan : DerivePlan} (a : DeriveArgs) (hfree : s.windows[plan.slot].occ = .free) :
    CountLaw (s.allocate plan a) := by
  refine h.of_windows fun i => ?_
  unfold State.allocate
  dsimp only
  rw [updAt_get]
  split
  next hi =>
    rw [hi, inFlight_free hfree]
    rfl
  next =>
    rw [updAt_get]
    split
    next hi => rw [hi]; exact inFlight_mapWindow_same (by intro _; rfl) _
    next => rfl

theorem narrowWindow (h : CountLaw s) (ix : SlotIx) (a : ShrinkArgs) : CountLaw (s.narrowWindow ix a) := by
  refine h.of_windows fun i => ?_
  unfold State.narrowWindow
  dsimp only
  rw [updAt_get]
  split
  next hi => rw [hi]; exact inFlight_mapWindow_same (by intro _; rfl) _
  next => rfl

theorem acceptRevoke (h : CountLaw s) (root : Handle) (k : RespIx) : CountLaw (s.acceptRevoke root k) := by
  refine h.of_windows (fun i => ?_) (s.acceptRevoke_tracker root k)
  rw [acceptRevoke_windows, Fin.getElem_fin, Vector.getElem_ofFn]
  exact inFlight_markSlot _ _ _ _

/-- After the start of a port reset nothing is in flight (R113). -/
theorem inFlight_startReset (h : CountLaw s) (i : SlotIx) :
    (s.windows[i].mapWindow (subInFlight (heldBy s.tracker i))).inFlight = 0 := by
  rw [inFlight_sub, h i, Nat.sub_self]

theorem startReset_windows (s : State) (i : SlotIx) :
    s.startReset.windows[i] = s.windows[i].mapWindow (subInFlight (heldBy s.tracker i)) := by
  unfold State.startReset
  simp

theorem startReset_tracker (s : State) (τ : Tag) : s.startReset.tracker[τ] = s.tracker[τ].portReset := by
  unfold State.startReset
  simp

theorem startReset (h : CountLaw s) : CountLaw s.startReset := by
  intro i
  rw [startReset_windows, h.inFlight_startReset i,
    heldBy_eq_zero (fun τ => by rw [startReset_tracker]; exact Entry.holds_portReset _)]

theorem effects (h : CountLaw s) : Effects s fun _ t => CountLaw t where
  idle _ := h
  asserts := of_reset rfl rfl
  releases bootEn bootId csLow hr := releaseReset s bootEn bootId csLow hr
  ticks := (kept.settle h).tickNow
  arrives _ _ _ _ := h.of_eq
  admits _ _ _ _ _ _ _ hu hj := h.admits (lowestFreeTag_free hu) hj
  refuses _ _ _ _ _ _ _ _ hu _ := h.refuses (lowestFreeTag_free hu)
  issues u x _ _ _ _ hu := h.of_set (u := u) (e := .issued x 0 false) (by rw [hu]; rfl)
  completes _ _ _ _ status data _ hu := h.timely hu status data
  late _ _ _ _ _ _ hu := h.late hu
  strays _ _ _ := h.of_eq
  responsesExpire := h.expireResponses
  delivers _ _ n u _ _ _ _ hu :=
    h.of_set (Entry.holds_afterDelivery hu) (deliverHead_tracker s n u).1 (deliverHead_windows s n u)
  drainsExpire := h.of_eq
  stallsExpire := h.of_eq
  frees _ _ _ hd := h.freeSubtree hd
  holdEnds dnReady := h.endHold dnReady
  becomesReady _ := h.of_eq
  commandEdges edges := h.runEdges _ edges
  typeEdges := h.runEdges _ _
  fetchEdges edges := h.runEdges _ edges
  answers _ _ _ _ _ _ := h.of_eq
  derives f rest k a _ p _ _ hd :=
    (h.of_eq (t := s.answered f rest k .done p)).allocate a (deriveChecks_slot_free hd)
  shrinks f rest k a ix _ _ _ := (h.of_eq (t := s.answered f rest k .done [])).narrowWindow ix a
  accepts f rest k g _ _ _ := (h.of_eq (t := s.deferred f rest k)).acceptRevoke g k
  replaces _ _ _ _ _ _ _ _ _ _ := h.of_eq
  binds _ _ _ _ _ _ _ _ _ _ := h.of_eq
  stages f rest k n target _ _ _ _ _ := by
    unfold State.stage
    dsimp only
    split <;> exact h.of_eq
  setsInitiator _ _ _ _ _ _ _ _ := h.of_eq
  startsReset f rest k _ _ _ := by
    have hstart := (h.of_eq (t := s.deferred f rest k)).startReset
    exact hstart
  joinsReset _ _ _ _ _ _ := h.of_eq
  setsControl _ _ _ _ _ _ _ := h.of_eq
  readsEvent _ _ _ _ _ _ _ _ := h.of_eq

end CountLaw

/-- Settles O8: every effect changes a count with the entries that count under it. -/
theorem stepKeepsCountLaw : Obligations.StepKeepsCountLaw := by
  unfold Obligations.StepKeepsCountLaw
  exact fun _ _ h hx => CountLaw.kept.step (fun _ hs => hs.effects) h hx

end Sys2Proof.Machine

/-! SUPPORT. Lanes, tracker, delivery lists and forward order (R29, R53, R66, R86, R98, R102): an entry joins the lists
at a take and leaves them at its delivery, and every other effect leaves it where it is. -/

namespace Sys2Proof.Machine

/- One proof after another: a thread for each at once is more than a machine holds. -/
set_option Elab.async false

/-! ### What an entry is to the lists -/

@[simp] theorem Entry.listedFor_expire (e : Entry) : e.expire.listedFor = e.listedFor := by
  unfold Entry.expire
  split <;> rfl

@[simp] theorem Entry.listedFor_tick (setting : Nat) (e : Entry) : (e.tick setting).listedFor = e.listedFor := by
  cases e <;> rfl

@[simp] theorem Entry.listedFor_portReset (e : Entry) : e.portReset.listedFor = e.listedFor := by
  cases e <;> rfl

@[simp] theorem Entry.listedFor_afterDelivery (e : Entry) : e.afterDelivery.listedFor = none := by
  unfold Entry.afterDelivery
  split <;> rfl

theorem Entry.isQueued_of_waiting {e e' : Entry} (h : e'.waiting = e.waiting) : e'.isQueued = e.isQueued := by
  cases hq : e.isQueued with
  | false => exact Entry.waiting_none.mp (h.trans (Entry.waiting_none.mpr hq))
  | true =>
    cases hq' : e'.isQueued with
    | true => rfl
    | false =>
      rw [Entry.waiting_none.mp (h.symm.trans (Entry.waiting_none.mpr hq'))] at hq
      cases hq

@[simp] theorem Entry.isQueued_expire (e : Entry) : e.expire.isQueued = e.isQueued :=
  Entry.isQueued_of_waiting e.waiting_expire

@[simp] theorem Entry.isQueued_tick (setting : Nat) (e : Entry) : (e.tick setting).isQueued = e.isQueued :=
  Entry.isQueued_of_waiting (e.waiting_tick setting)

@[simp] theorem Entry.isQueued_portReset (e : Entry) : e.portReset.isQueued = false :=
  Entry.waiting_none.mp e.waiting_portReset

@[simp] theorem Entry.isQueued_afterDelivery (e : Entry) : e.afterDelivery.isQueued = false :=
  Entry.waiting_none.mp e.waiting_afterDelivery

theorem Entry.isQueued_of_deliverable {e : Entry} (h : e.deliverable = true) : e.isQueued = false :=
  Entry.waiting_none.mp (Entry.waiting_of_deliverable h)

/-- What the admission arbiter grants waits, with the port READY, below the limit, and not FENCING (R32). -/
theorem grantedLane_eligible {s : State} {n : Initiator} (h : s.grantedLane = some n) :
    s.port = .ready ∧ s.contexts[n].undelivered < Config.maxUndelivered := by
  have he : s.eligible n = true := (roundRobin_some.mp h).1
  simp only [State.eligible, Bool.and_eq_true, beq_iff_eq, decide_eq_true_eq] at he
  exact ⟨he.1.1.1.2, he.1.2⟩

/-- What is pending after a tick or an expiry was pending before. -/
theorem Rebind.pending_isSome_tick (d : Nat) (r : Rebind) : (r.tick d).pending?.isSome = r.pending?.isSome := by
  cases r <;> rfl

theorem Rebind.pending_isSome_expire (r : Rebind) : r.expire.pending?.isSome = r.pending?.isSome := by
  unfold Rebind.expire
  split
  · split <;> rfl
  · rfl

/-- What a replacement makes of a rebind state: another target and slot, the timer kept (R65). -/
def Rebind.retarget (target : Option Handle) (k : RespIx) : Rebind → Rebind
  | .none => .none
  | .staged p => .staged { p with target := target, slot := k }
  | .fencing p => .fencing { p with target := target, slot := k }

theorem Rebind.pending_retarget (target : Option Handle) (k : RespIx) (r : Rebind) :
    (r.retarget target k).pending? = r.pending?.map fun p => { p with target := target, slot := k } := by
  cases r <;> rfl

theorem replaceBinding_contexts (s : State) (n : Initiator) (k : RespIx) (target : Option Handle) (old : Pending) :
    (s.replaceBinding n k target old).contexts =
      updAt s.contexts n fun c => { c with rebind := c.rebind.retarget target k } := by
  have hfun : (fun c : Context =>
      { c with
        rebind :=
          match c.rebind with
          | .none => .none
          | .staged p => .staged { p with target := target, slot := k }
          | .fencing p => .fencing { p with target := target, slot := k } }) =
      fun c => { c with rebind := c.rebind.retarget target k } := by
    funext c
    cases c.rebind <;> rfl
  rw [← hfun]
  rfl

/-! ### The law over effects -/

namespace TrackerLaw

variable {s t : State}

/-- The lists are as they were, and no entry, count or binding changed what it is to them. -/
theorem congr (h : TrackerLaw s) (hlists : t.deliveryLists = s.deliveryLists)
    (hlisted : ∀ τ : Tag, t.tracker[τ].listedFor = s.tracker[τ].listedFor)
    (hqueued : ∀ τ : Tag, t.tracker[τ].isQueued = s.tracker[τ].isQueued)
    (hcount : ∀ n : Initiator, t.contexts[n].undelivered = s.contexts[n].undelivered)
    (hpending : ∀ n : Initiator, t.contexts[n].rebind.pending?.isSome = true → 0 < s.contexts[n].undelivered)
    (hforward : t.forward = s.forward)
    (hport : t.port ≠ .ready → s.port ≠ .ready)
    (hholds : ∀ τ : Tag, s.tracker[τ].holds = none → t.tracker[τ].holds = none)
    (hlanes : t.lanes = s.lanes) : TrackerLaw t where
  lists_nodup n := by rw [hlists]; exact h.lists_nodup n
  lists_member n τ := by rw [hlists, hlisted]; exact h.lists_member n τ
  undelivered n := by rw [hlists, hcount]; exact h.undelivered n
  bound n := by rw [hcount]; exact h.bound n
  pending n hn := by rw [hcount]; exact hpending n hn
  forward_nodup := by rw [hforward]; exact h.forward_nodup
  forward_queued τ := by rw [hforward, hqueued]; exact h.forward_queued τ
  resetting hp τ := hholds τ (h.resetting (hport hp) τ)
  lanes_bound n := by rw [hlanes]; exact h.lanes_bound n
  lanes_complete n := by rw [hlanes]; exact h.lanes_complete n

/-- Contexts change, with their counts the same and no binding begun while nothing is undelivered. -/
theorem of_contexts (h : TrackerLaw s)
    (hcount : ∀ n : Initiator, t.contexts[n].undelivered = s.contexts[n].undelivered)
    (hpending : ∀ n : Initiator, t.contexts[n].rebind.pending?.isSome = true →
      s.contexts[n].rebind.pending?.isSome = true ∨ 0 < s.contexts[n].undelivered)
    (hlists : t.deliveryLists = s.deliveryLists := by rfl) (htracker : t.tracker = s.tracker := by rfl)
    (hforward : t.forward = s.forward := by rfl) (hport : t.port = s.port := by rfl)
    (hlanes : t.lanes = s.lanes := by rfl) : TrackerLaw t :=
  h.congr hlists (fun τ => by rw [htracker]) (fun τ => by rw [htracker]) hcount
    (fun n hn => (hpending n hn).elim (h.pending n) id) hforward (fun hp => hport ▸ hp)
    (fun τ hτ => by rw [htracker]; exact hτ) hlanes

/-- One context changes in other fields. -/
theorem of_updAt (h : TrackerLaw s) {n : Initiator} {f : Context → Context}
    (hcontexts : t.contexts = updAt s.contexts n f) (hcount : ∀ c, (f c).undelivered = c.undelivered)
    (hpending : (f s.contexts[n]).rebind.pending?.isSome = true →
      s.contexts[n].rebind.pending?.isSome = true ∨ 0 < s.contexts[n].undelivered)
    (hlists : t.deliveryLists = s.deliveryLists := by rfl) (htracker : t.tracker = s.tracker := by rfl)
    (hforward : t.forward = s.forward := by rfl) (hport : t.port = s.port := by rfl)
    (hlanes : t.lanes = s.lanes := by rfl) : TrackerLaw t := by
  refine h.of_contexts (fun m => ?_) (fun m hm => ?_) hlists htracker hforward hport hlanes
  · rw [hcontexts, updAt_get]
    split
    next hmn => rw [hcount, hmn]
    next => rfl
  · rw [hcontexts, updAt_get] at hm
    split at hm
    next hmn => rw [hmn]; exact hpending hm
    next => exact .inl hm

theorem of_eq (h : TrackerLaw s) (hcontexts : t.contexts = s.contexts := by rfl)
    (hlists : t.deliveryLists = s.deliveryLists := by rfl) (htracker : t.tracker = s.tracker := by rfl)
    (hforward : t.forward = s.forward := by rfl) (hport : t.port = s.port := by rfl)
    (hlanes : t.lanes = s.lanes := by rfl) : TrackerLaw t :=
  h.of_contexts (fun n => by rw [hcontexts]) (fun n hn => .inl (by rwa [hcontexts] at hn)) hlists htracker hforward
    hport hlanes

/-- One entry becomes another that is the same to the lists. -/
theorem of_set (h : TrackerLaw s) {u : Tag} {e : Entry} (hlisted : e.listedFor = s.tracker[u].listedFor)
    (hqueued : e.isQueued = s.tracker[u].isQueued) (hholds : s.tracker[u].holds = none → e.holds = none)
    (htracker : t.tracker = s.tracker.set u e := by rfl) (hcontexts : t.contexts = s.contexts := by rfl)
    (hlists : t.deliveryLists = s.deliveryLists := by rfl) (hforward : t.forward = s.forward := by rfl)
    (hport : t.port = s.port := by rfl) (hlanes : t.lanes = s.lanes := by rfl) : TrackerLaw t := by
  refine h.congr hlists (fun τ => ?_) (fun τ => ?_) (fun n => by rw [hcontexts])
    (fun n hn => h.pending n (by rwa [hcontexts] at hn)) hforward (fun hp => hport ▸ hp) (fun τ hτ => ?_) hlanes <;>
    rw [htracker, entry_set] <;> split
  next hu => rw [hlisted, hu]
  next => rfl
  next hu => rw [hqueued, hu]
  next => rfl
  next hu => exact hholds (hu ▸ hτ)
  next => exact hτ

/-- Every entry becomes another that is the same to the lists. -/
theorem of_map (h : TrackerLaw s) {f : Entry → Entry} (hlisted : ∀ e, (f e).listedFor = e.listedFor)
    (hqueued : ∀ e, (f e).isQueued = e.isQueued) (hholds : ∀ e, (f e).holds = e.holds)
    (htracker : t.tracker = s.tracker.map f)
    (hcount : ∀ n : Initiator, t.contexts[n].undelivered = s.contexts[n].undelivered)
    (hpending : ∀ n : Initiator, t.contexts[n].rebind.pending?.isSome = s.contexts[n].rebind.pending?.isSome)
    (hlists : t.deliveryLists = s.deliveryLists) (hforward : t.forward = s.forward)
    (hport : t.port ≠ .ready → s.port ≠ .ready) (hlanes : t.lanes = s.lanes) : TrackerLaw t := by
  have hget (τ : Tag) : t.tracker[τ] = f s.tracker[τ] := by simp [htracker]
  exact h.congr hlists (fun τ => by rw [hget, hlisted]) (fun τ => by rw [hget, hqueued]) hcount
    (fun n hn => h.pending n (hpending n ▸ hn)) hforward hport (fun τ hτ => by rw [hget, hholds, hτ]) hlanes

/-! ### Time and reset -/

theorem endHold (h : TrackerLaw s) (dnReady : Bool) : TrackerLaw (s.endHold dnReady) := by
  unfold State.endHold
  split
  next c hc =>
    split
    · have hawait : TrackerLaw { s with port := .awaitingReady } :=
        h.congr rfl (fun _ => rfl) (fun _ => rfl) (fun _ => rfl) (fun n hn => h.pending n hn) rfl
          (fun _ hp => by rw [hc] at hp; cases hp) (fun _ hτ => hτ) rfl
      cases dnReady
      · exact hawait
      · exact hawait.congr rfl (fun _ => rfl) (fun _ => rfl) (fun _ => rfl) (fun n hn => h.pending n hn) rfl
          (fun hp => absurd rfl hp) (fun _ hτ => hτ) rfl
    · exact h
  · exact h

theorem expireResponses (h : TrackerLaw s) : TrackerLaw s.expireResponses :=
  h.of_map Entry.listedFor_expire Entry.isQueued_expire Entry.holds_expire rfl (fun _ => rfl) (fun _ => rfl) rfl rfl
    id rfl

theorem expireDrains (h : TrackerLaw s) : TrackerLaw s.expireDrains := by
  refine h.of_contexts (fun n => ?_) (fun n hn => .inl ?_)
  · simp [State.expireDrains]
  · simpa [State.expireDrains, Rebind.pending_isSome_expire] using hn

theorem tickNow (h : TrackerLaw s) : TrackerLaw s.tickNow := by
  refine h.of_map (f := Entry.tick s.settings.responseTimeout) (Entry.listedFor_tick _) (Entry.isQueued_tick _)
    (Entry.holds_tick _) rfl (fun n => ?_) (fun n => ?_) s.tickNow_deliveryLists s.tickNow_forward (fun hp hs => hp ?_)
    s.tickNow_lanes
  · simp [State.tickNow]
  · simp [State.tickNow, Rebind.pending_isSome_tick]
  · change s.port.tick = .ready
    rw [hs]
    rfl

theorem kept : Kept TrackerLaw where
  pending _ _ h := h.of_eq
  counts _ h _ := h.of_eq
  holdEnds _ h := h.endHold
  responsesExpire _ h := h.expireResponses
  drainsExpire _ h := h.expireDrains
  stallsExpire _ h := h.of_eq
  ticks _ h := h.tickNow

/-- Empty lists, FREE entries and idle contexts meet the law. -/
theorem of_reset (hlists : t.deliveryLists = Vector.replicate 8 []) (htracker : t.tracker = Vector.replicate 32 .free)
    (hcontexts : ∀ n : Initiator, t.contexts[n].undelivered = 0 ∧ t.contexts[n].rebind = .none)
    (hforward : t.forward = []) (hlanes : t.lanes = Vector.replicate 8 []) : TrackerLaw t where
  lists_nodup n := by simp [hlists]
  lists_member n τ := by simp [hlists, htracker, Entry.listedFor]
  undelivered n := by rw [(hcontexts n).1]; simp [hlists]
  bound n := by rw [(hcontexts n).1]; decide
  pending n hn := by rw [(hcontexts n).2] at hn; cases hn
  forward_nodup := by rw [hforward]; exact List.nodup_nil
  forward_queued τ := by simp [hforward, htracker, Entry.isQueued]
  resetting _ τ := by simp [htracker, Entry.holds]
  lanes_bound n := by simp [hlanes]
  lanes_complete n := by simp [hlanes]

theorem assertReset (s : State) : TrackerLaw s.assertReset :=
  of_reset rfl rfl (fun n => by simp [State.assertReset, State.reset, resetContext]) rfl rfl

theorem releaseReset (s : State) (bootEn : Bool) (bootId : Initiator) (csLow : Bool) (hr : s.resetn = false) :
    TrackerLaw (s.releaseReset bootEn bootId csLow) := by
  unfold State.releaseReset
  rw [if_neg (by simp [hr])]
  refine of_reset rfl rfl (fun n => ?_) rfl rfl
  rw [Fin.getElem_fin, Vector.getElem_ofFn]
  unfold bootContext
  split <;> exact ⟨rfl, rfl⟩

theorem runEdges (h : TrackerLaw s) (own : State → SpiEdge → Bool) (edges : List SpiEdge) :
    TrackerLaw (Machine.runEdges own edges s) := by
  have hl := runEdges_linkOnly own edges s
  exact h.of_eq hl.contexts hl.deliveryLists hl.tracker hl.forward hl.port hl.lanes

/-! ### Admission -/

theorem arrives (h : TrackerLaw s) {n : Initiator} {r : Request} (hr : r.complete = true)
    (hroom : s.lanes[n].length < Config.laneDepth) : TrackerLaw { s with lanes := updAt s.lanes n (· ++ [r]) } :=
  { h with
    lanes_bound := fun m => by
      rw [updAt_get]
      split
      · rw [List.length_append]; exact hroom
      · exact h.lanes_bound m
    lanes_complete := fun m q hq => by
      rw [updAt_get] at hq
      split at hq
      · rcases List.mem_append.mp hq with hq | hq
        · exact h.lanes_complete n q hq
        · rw [List.mem_singleton.mp hq]; exact hr
      · exact h.lanes_complete m q hq }

/-- A FREE entry stands in no delivery list. -/
theorem not_listed (h : TrackerLaw s) {u : Tag} (hu : s.tracker[u].listedFor = none) (n : Initiator) :
    u ∉ s.deliveryLists[n] := by
  rw [h.lists_member, hu]
  exact nofun

/-- A take enters a FREE entry at the tail of its initiator's delivery list, and of the forward order when it is
QUEUED (R41, R42). -/
theorem enters (h : TrackerLaw s) {n : Initiator} {u : Tag} {e : Entry} (hfree : s.tracker[u] = .free)
    (hgranted : s.grantedLane = some n) (he : e.listedFor = some n) (htracker : t.tracker = s.tracker.set u e)
    (hlists : t.deliveryLists = updAt s.deliveryLists n (· ++ [u]))
    (hcount : ∀ m : Initiator, t.contexts[m].undelivered =
      if m = n then s.contexts[n].undelivered + 1 else s.contexts[m].undelivered)
    (hrebind : ∀ m : Initiator, t.contexts[m].rebind = s.contexts[m].rebind)
    (hforward : t.forward = if e.isQueued then s.forward ++ [u] else s.forward) (hport : t.port = s.port)
    (hlanes : t.lanes = updAt s.lanes n List.tail) : TrackerLaw t := by
  obtain ⟨hready, hbelow⟩ := grantedLane_eligible hgranted
  have hnot := h.not_listed (u := u) (by rw [hfree]; rfl)
  have hnotForward : u ∉ s.forward := by
    rw [h.forward_queued, hfree]
    exact nofun
  refine ⟨fun m => ?_, fun m τ => ?_, fun m => ?_, fun m => ?_, fun m hm => ?_, ?_, fun τ => ?_,
    fun hp => absurd (hport.trans hready) hp, fun m => ?_, fun m q hq => ?_⟩
  · rw [hlists, updAt_get]
    split
    · exact List.nodup_append'.mpr ⟨h.lists_nodup n, List.nodup_singleton u, by simpa using hnot n⟩
    · exact h.lists_nodup m
  · rw [hlists, updAt_get, htracker, entry_set]
    by_cases hτ : τ = u
    · subst hτ
      rw [if_pos rfl, he]
      split
      next hm => simp [hm]
      next hm => simpa [Ne.symm hm] using hnot m
    · rw [if_neg hτ]
      split
      next hm => rw [List.mem_append, List.mem_singleton, or_iff_left hτ, hm]; exact h.lists_member n τ
      next => exact h.lists_member m τ
  · rw [hcount, hlists, updAt_get]
    split
    · rw [List.length_append, h.undelivered n]; rfl
    · exact h.undelivered m
  · rw [hcount]
    split
    · exact hbelow
    · exact h.bound m
  · rw [hcount]
    split
    · exact Nat.succ_pos _
    · exact h.pending m (by rwa [hrebind] at hm)
  · rw [hforward]
    split
    · exact List.nodup_append'.mpr ⟨h.forward_nodup, List.nodup_singleton u, by simpa using hnotForward⟩
    · exact h.forward_nodup
  · rw [hforward, htracker, entry_set]
    by_cases hτ : τ = u
    · subst hτ
      rw [if_pos rfl]
      cases hq : e.isQueued <;> simp [hnotForward]
    · rw [if_neg hτ, ← h.forward_queued]
      split
      · rw [List.mem_append, List.mem_singleton, or_iff_left hτ]
      · rfl
  · rw [hlanes, updAt_get]
    split
    · rw [List.length_tail]; exact le_trans (Nat.sub_le _ _) (h.lanes_bound n)
    · exact h.lanes_bound m
  · rw [hlanes, updAt_get] at hq
    split at hq
    · exact h.lanes_complete n q (List.mem_of_mem_tail hq)
    · exact h.lanes_complete m q hq

theorem enter_undelivered (s : State) (n m : Initiator) (u : Tag) (e : Entry) :
    (s.enter n u e).contexts[m].undelivered =
        (if m = n then s.contexts[n].undelivered + 1 else s.contexts[m].undelivered) ∧
      (s.enter n u e).contexts[m].rebind = s.contexts[m].rebind := by
  rw [enter_contexts, updAt_get]
  split
  next hm => rw [hm]; exact ⟨rfl, rfl⟩
  next => exact ⟨rfl, rfl⟩

theorem admits (h : TrackerLaw s) {n : Initiator} {u : Tag} (r : Request) (ix : SlotIx)
    (hfree : s.tracker[u] = .free) (hgranted : s.grantedLane = some n) :
    TrackerLaw ((s.leaveLane n).enterAdmitted n r u ix) := by
  have henter (m : Initiator) :=
    enter_undelivered (s.leaveLane n) n m u (.queued ⟨n, ix, r.kind, r.addr, r.len⟩ r.data)
  exact h.enters (e := .queued ⟨n, ix, r.kind, r.addr, r.len⟩ r.data) hfree hgranted rfl rfl rfl
    (fun m => (henter m).1) (fun m => (henter m).2) rfl rfl rfl

/-- What a refused take leaves of the state, besides the log and the initiator's state. -/
theorem refuse_fields (s : State) (n : Initiator) (r : Request) (u : Tag) (kind : EventKind) (window : Option SlotIx) :
    (s.refuse n r u kind window).deliveryLists = updAt s.deliveryLists n (· ++ [u]) ∧
      (s.refuse n r u kind window).forward = s.forward ∧ (s.refuse n r u kind window).port = s.port ∧
      (s.refuse n r u kind window).lanes = s.lanes ∧
      ∀ m : Initiator,
        (s.refuse n r u kind window).contexts[m].undelivered =
            (if m = n then s.contexts[n].undelivered + 1 else s.contexts[m].undelivered) ∧
          (s.refuse n r u kind window).contexts[m].rebind = s.contexts[m].rebind := by
  have henter := enter_undelivered s n (u := u) (e := .refused n r.kind r.len)
  unfold State.refuse
  dsimp only
  split
  · refine ⟨rfl, rfl, rfl, rfl, fun m => ?_⟩
    have hclosed : ((s.enter n u (.refused n r.kind r.len)).updContext n
        fun c => { c with state := .closed }).contexts[m].undelivered =
          (s.enter n u (.refused n r.kind r.len)).contexts[m].undelivered ∧
        ((s.enter n u (.refused n r.kind r.len)).updContext n fun c => { c with state := .closed }).contexts[m].rebind =
          (s.enter n u (.refused n r.kind r.len)).contexts[m].rebind := by
      unfold State.updContext
      dsimp only
      rw [updAt_get]
      split
      next hm => rw [hm]; exact ⟨rfl, rfl⟩
      next => exact ⟨rfl, rfl⟩
    exact ⟨hclosed.1.trans (henter m).1, hclosed.2.trans (henter m).2⟩
  · exact ⟨rfl, rfl, rfl, rfl, henter⟩

theorem refuses (h : TrackerLaw s) {n : Initiator} {u : Tag} (r : Request) (kind : EventKind) (window : Option SlotIx)
    (hfree : s.tracker[u] = .free) (hgranted : s.grantedLane = some n) :
    TrackerLaw ((s.leaveLane n).refuse n r u kind window) := by
  obtain ⟨hlists, hforward, hport, hlanes, hcontexts⟩ := refuse_fields (s.leaveLane n) n r u kind window
  exact h.enters (e := .refused n r.kind r.len) hfree hgranted rfl (refuse_tracker (s.leaveLane n) n r u kind window).1
    hlists (fun m => (hcontexts m).1) (fun m => (hcontexts m).2) hforward hport hlanes

/-! ### The memory port -/

/-- Sending takes the head of the forward order, which is QUEUED no more (R104). -/
theorem issues (h : TrackerLaw s) {u : Tag} {x : Txn} {data : List Beat} {rest : List Tag} (hport : s.port = .ready)
    (hforward : s.forward = u :: rest) (hu : s.tracker[u] = .queued x data)
    (htracker : t.tracker = s.tracker.set u (.issued x 0 false)) (hrest : t.forward = rest)
    (hcontexts : t.contexts = s.contexts) (hlists : t.deliveryLists = s.deliveryLists) (hp : t.port = s.port)
    (hlanes : t.lanes = s.lanes) : TrackerLaw t := by
  obtain ⟨hnot, hnodup⟩ := List.nodup_cons.mp (hforward ▸ h.forward_nodup)
  refine ⟨fun n => ?_, fun n τ => ?_, fun n => ?_, fun n => ?_, fun n hn => ?_, ?_, fun τ => ?_,
    fun hne => absurd (hp.trans hport) hne, fun n => ?_, fun n => ?_⟩
  · rw [hlists]; exact h.lists_nodup n
  · rw [hlists, h.lists_member, htracker, entry_set]
    split
    next hτ => rw [hτ, hu]; rfl
    next => rfl
  · rw [hlists, hcontexts]; exact h.undelivered n
  · rw [hcontexts]; exact h.bound n
  · rw [hcontexts] at hn ⊢; exact h.pending n hn
  · rw [hrest]; exact hnodup
  · rw [hrest, htracker, entry_set]
    split
    next hτ => rw [hτ]; simpa [Entry.isQueued] using hnot
    next hτ => rw [← h.forward_queued, hforward, List.mem_cons, or_iff_right hτ]
  · rw [hlanes]; exact h.lanes_bound n
  · rw [hlanes]; exact h.lanes_complete n

/-- What a timely response leaves of the state, besides entry, window count, read data and log. -/
theorem timely_fields (s : State) (u : Tag) (x : Txn) (status : DnStatus) (data : List Beat) :
    (s.timely u x status data).deliveryLists = s.deliveryLists ∧ (s.timely u x status data).forward = s.forward ∧
      (s.timely u x status data).port = s.port ∧ (s.timely u x status data).lanes = s.lanes := by
  unfold State.timely
  dsimp only
  split <;> split <;> exact ⟨rfl, rfl, rfl, rfl⟩

theorem timely (h : TrackerLaw s) {u : Tag} {x : Txn} {e : Nat} {d : Bool} (hu : s.tracker[u] = .issued x e d)
    (status : DnStatus) (data : List Beat) : TrackerLaw (s.timely u x status data) := by
  obtain ⟨⟨o, ht⟩, -⟩ := timely_tracker s u x status data
  obtain ⟨hlists, hforward, hport, hlanes⟩ := timely_fields s u x status data
  exact h.of_set (u := u) (e := .done x o) (by rw [hu]; rfl) (by rw [hu]; rfl) (fun _ => rfl) ht
    (timely_contexts s u x status data) hlists hforward hport hlanes

theorem late (h : TrackerLaw s) {u : Tag} {x : Txn} {after : Entry}
    (hu : s.tracker[u] = .expired x true ∧ after = .expired x false ∨ s.tracker[u] = .orphaned x ∧ after = .free) :
    TrackerLaw (s.late u x after) := by
  rcases hu with ⟨hu, rfl⟩ | ⟨hu, rfl⟩
  · exact h.of_set (u := u) (e := .expired x false) (by rw [hu]; rfl) (by rw [hu]; rfl) fun _ => rfl
  · exact h.of_set (u := u) (e := .free) (by rw [hu]; rfl) (by rw [hu]; rfl) fun _ => rfl

/-- The start of a port reset resolves what was owed and empties the forward order (R113). -/
theorem startReset (h : TrackerLaw s) : TrackerLaw s.startReset := by
  have hget (τ : Tag) : s.startReset.tracker[τ] = s.tracker[τ].portReset := CountLaw.startReset_tracker s τ
  have hforward : s.startReset.forward = [] := by unfold State.startReset; rfl
  refine ⟨fun n => ?_, fun n τ => ?_, fun n => ?_, fun n => ?_, fun n hn => ?_, ?_, fun τ => ?_, fun _ τ => ?_,
    fun n => ?_, fun n => ?_⟩
  · rw [State.startReset_deliveryLists]; exact h.lists_nodup n
  · rw [State.startReset_deliveryLists, hget, Entry.listedFor_portReset]; exact h.lists_member n τ
  · rw [State.startReset_deliveryLists, State.startReset_contexts]; exact h.undelivered n
  · rw [State.startReset_contexts]; exact h.bound n
  · rw [State.startReset_contexts] at hn ⊢; exact h.pending n hn
  · rw [hforward]; exact List.nodup_nil
  · rw [hforward, hget, Entry.isQueued_portReset]; simp
  · rw [hget]; exact Entry.holds_portReset _
  · rw [State.startReset_lanes]; exact h.lanes_bound n
  · rw [State.startReset_lanes]; exact h.lanes_complete n

/-! ### Delivery -/

/-- What a delivery leaves of the state, besides its initiator's context and the response slots. -/
theorem deliverHead_fields (s : State) (n : Initiator) (u : Tag) :
    (s.deliverHead n u).deliveryLists = updAt s.deliveryLists n List.tail ∧
      (s.deliverHead n u).forward = s.forward ∧ (s.deliverHead n u).port = s.port ∧
      (s.deliverHead n u).lanes = s.lanes := by
  unfold State.deliverHead
  dsimp only
  split <;> exact ⟨rfl, rfl, rfl, rfl⟩

/-- A delivery lowers its initiator's count, and a binding of it stays pending only above 0 (R66). -/
theorem deliverHead_context (s : State) (n m : Initiator) (u : Tag) :
    (s.deliverHead n u).contexts[m].undelivered =
        (if m = n then s.contexts[n].undelivered - 1 else s.contexts[m].undelivered) ∧
      ((s.deliverHead n u).contexts[m].rebind.pending?.isSome = true →
        if m = n then 0 < s.contexts[n].undelivered - 1 else s.contexts[m].rebind.pending?.isSome = true) := by
  unfold State.deliverHead
  dsimp only
  split
  next p hdue =>
    rw [commit_contexts, handUp_contexts]
    by_cases hm : m = n
    · subst hm
      simp only [updAt_self, if_true, true_and]
      exact nofun
    · rw [updAt_other _ _ _ _ hm, updAt_other _ _ _ _ hm, if_neg hm, if_neg hm]
      exact ⟨rfl, id⟩
  next hdue =>
    rw [handUp_contexts]
    by_cases hm : m = n
    · subst hm
      rw [State.commitDue, handUp_contexts] at hdue
      simp only [updAt_self, if_true, true_and] at hdue ⊢
      intro hpending
      by_contra hzero
      rw [if_pos (by omega)] at hdue
      rw [hdue] at hpending
      cases hpending
    · rw [updAt_other _ _ _ _ hm, if_neg hm, if_neg hm]
      exact ⟨rfl, id⟩

/-- A delivery takes the head of a delivery list, which is listed no more (R92). -/
theorem delivers (h : TrackerLaw s) {n : Initiator} {u : Tag} {rest : List Tag}
    (hlist : s.deliveryLists[n] = u :: rest) (hu : s.tracker[u].deliverable = true) :
    TrackerLaw (s.deliverHead n u) := by
  obtain ⟨hlists, hforward, hport, hlanes⟩ := deliverHead_fields s n u
  have htracker := (deliverHead_tracker s n u).1
  have hcontext := deliverHead_context s n (u := u)
  obtain ⟨hnot, hnodup⟩ := List.nodup_cons.mp (hlist ▸ h.lists_nodup n)
  have hlisted : s.tracker[u].listedFor = some n := (h.lists_member n u).mp (by rw [hlist]; exact List.mem_cons_self)
  have hlength : s.contexts[n].undelivered = rest.length + 1 := by rw [h.undelivered n, hlist]; rfl
  refine ⟨fun m => ?_, fun m τ => ?_, fun m => ?_, fun m => ?_, fun m hm => ?_, ?_, fun τ => ?_, fun hp τ => ?_,
    fun m => ?_, fun m => ?_⟩
  · rw [hlists, updAt_get]
    split
    · rw [hlist]; exact hnodup
    · exact h.lists_nodup m
  · rw [hlists, updAt_get, htracker, entry_set, hlist, List.tail_cons]
    by_cases hτ : τ = u
    · subst hτ
      rw [if_pos rfl, Entry.listedFor_afterDelivery]
      refine iff_of_false ?_ nofun
      split
      · exact hnot
      next hm => rw [h.lists_member, hlisted]; exact fun he => hm (Option.some.inj he).symm
    · rw [if_neg hτ, ← h.lists_member]
      split
      next hm => rw [hm, hlist, List.mem_cons, or_iff_right hτ]
      next => rfl
  · rw [(hcontext m).1, hlists, updAt_get]
    split
    · rw [hlist, hlength]; rfl
    · exact h.undelivered m
  · rw [(hcontext m).1]
    split
    · exact le_trans (Nat.sub_le _ _) (h.bound n)
    · exact h.bound m
  · have hpending := (hcontext m).2 hm
    rw [(hcontext m).1]
    split at hpending
    next he => rw [if_pos he]; exact hpending
    next he => rw [if_neg he]; exact h.pending m hpending
  · rw [hforward]; exact h.forward_nodup
  · rw [hforward, h.forward_queued, htracker, entry_set]
    split
    next hτ => rw [hτ, Entry.isQueued_afterDelivery, Entry.isQueued_of_deliverable hu]
    next => rfl
  · rw [htracker, entry_set]
    have hnone := h.resetting (by rwa [hport] at hp)
    split
    · rw [Entry.holds_afterDelivery hu]; exact hnone u
    · exact hnone τ
  · rw [hlanes]; exact h.lanes_bound m
  · rw [hlanes]; exact h.lanes_complete m

/-! ### Bindings and revocations -/

theorem acceptRevoke (h : TrackerLaw s) (root : Handle) (k : RespIx) : TrackerLaw (s.acceptRevoke root k) := by
  have hget (n : Initiator) : (s.acceptRevoke root k).contexts[n] =
      s.contexts[n].afterRevoke (subtreeOf s.windows root.index) := by
    rw [acceptRevoke_contexts]; simp
  refine h.of_contexts (fun n => by rw [hget]; rfl) (fun n hn => .inl ?_) (s.acceptRevoke_deliveryLists root k)
    (s.acceptRevoke_tracker root k) (s.acceptRevoke_forward root k) (s.acceptRevoke_port root k)
    (s.acceptRevoke_lanes root k)
  rw [hget] at hn
  unfold Context.afterRevoke at hn
  dsimp only at hn
  split at hn
  · cases hn
  · exact hn

theorem stage (h : TrackerLaw s) (n : Initiator) (k : RespIx) (target : Option Handle)
    (hpos : s.contexts[n].undelivered ≠ 0) : TrackerLaw (s.stage n k target) := by
  unfold State.stage
  dsimp only
  split
  · exact h.of_updAt (n := n) (f := fun c => { c with rebind := .fencing ⟨target, k, 0, false⟩ }) rfl (fun _ => rfl)
      fun _ => .inr (Nat.pos_of_ne_zero hpos)
  · exact h.of_updAt (n := n) (f := fun c => { c with rebind := .staged ⟨target, k, 0, false⟩ }) rfl (fun _ => rfl)
      fun _ => .inr (Nat.pos_of_ne_zero hpos)

theorem replaceBinding (h : TrackerLaw s) (n : Initiator) (k : RespIx) (target : Option Handle) {old : Pending}
    (hold : s.contexts[n].rebind.pending? = some old) : TrackerLaw (s.replaceBinding n k target old) := by
  exact h.of_updAt (replaceBinding_contexts s n k target old) (fun _ => rfl) fun _ => .inl (by rw [hold]; rfl)

theorem effects (h : TrackerLaw s) : Effects s fun _ t => TrackerLaw t where
  idle _ := h
  asserts := assertReset s
  releases bootEn bootId csLow hr := releaseReset s bootEn bootId csLow hr
  ticks := (kept.settle h).tickNow
  arrives _ _ hr hroom := h.arrives hr hroom
  admits _ _ r _ ix hn _ hu _ := h.admits r ix (lowestFreeTag_free hu) hn
  refuses _ _ r _ kind window hn _ hu _ := h.refuses r kind window (lowestFreeTag_free hu) hn
  issues _ _ _ _ hp hf hu := h.issues hp hf hu rfl rfl rfl rfl rfl rfl
  completes _ _ _ _ status data _ hu := h.timely hu status data
  late _ _ _ _ _ _ hu := h.late hu
  strays _ _ _ := h.of_eq
  responsesExpire := h.expireResponses
  delivers _ _ _ _ _ _ _ hl hu := h.delivers hl hu
  drainsExpire := h.expireDrains
  stallsExpire := h.of_eq
  frees pos e _ _ := h.of_eq (s.freeSubtree_contexts pos.val e) (s.freeSubtree_deliveryLists pos.val e)
    (s.freeSubtree_tracker pos.val e) (s.freeSubtree_forward pos.val e) (s.freeSubtree_port pos.val e)
    (s.freeSubtree_lanes pos.val e)
  holdEnds dnReady := h.endHold dnReady
  becomesReady _ :=
    h.congr rfl (fun _ => rfl) (fun _ => rfl) (fun _ => rfl) (fun n hn => h.pending n hn) rfl
      (fun hp => absurd rfl hp) (fun _ hτ => hτ) rfl
  commandEdges edges := h.runEdges _ edges
  typeEdges := h.runEdges _ _
  fetchEdges edges := h.runEdges _ edges
  answers _ _ _ _ _ _ := h.of_eq
  derives _ _ _ _ _ _ _ _ _ := h.of_eq
  shrinks _ _ _ _ _ _ _ _ := h.of_eq
  accepts f rest k g _ _ _ := (h.of_eq (t := s.deferred f rest k)).acceptRevoke g k
  replaces f rest k n target _ _ _ _ hold := (h.of_eq (t := s.deferred f rest k)).replaceBinding n k target hold
  binds _ _ _ n target _ _ _ hnone _ :=
    h.of_updAt (n := n) (f := fun c => { c with current := target }) rfl (fun _ => rfl) fun hp => .inl hp
  stages f rest k n target _ _ _ _ hpos := (h.of_eq (t := s.deferred f rest k)).stage n k target hpos
  setsInitiator _ _ _ n st po _ _ :=
    h.of_updAt (n := n) (f := fun c => { c with state := st, policy := po }) rfl (fun _ => rfl) fun hp => .inl hp
  startsReset f rest k _ _ _ := by
    have hstart := (h.of_eq (t := s.deferred f rest k)).startReset
    exact { hstart with }
  joinsReset _ _ _ _ _ _ := h.of_eq
  setsControl _ _ _ _ _ _ _ := h.of_eq
  readsEvent _ _ _ _ _ _ _ _ := h.of_eq

end TrackerLaw

/-- Settles O7: a take enters an entry, a delivery takes it out, and nothing else moves it. -/
theorem stepKeepsTrackerLaw : Obligations.StepKeepsTrackerLaw := by
  unfold Obligations.StepKeepsTrackerLaw
  exact fun _ _ h hx => TrackerLaw.kept.step (fun _ hs => hs.effects) h hx

end Sys2Proof.Machine

/-! SUPPORT. What the controller's checks pass, in the tables' own words; and the default law (R73): a default names a
LIVE window that its initiator holds, through every effect. -/

namespace Sys2Proof.Machine

/- One proof after another: a thread for each at once is more than a machine holds. -/
set_option Elab.async false

/-! ### What the checks pass -/

/-- What DERIVE's checks pass (R120 to R125). -/
theorem deriveChecks_ok {s : State} {a : DeriveArgs} {plan : DerivePlan} (h : deriveChecks s a = .ok plan) :
    ∃ g, plan.parent = g.index ∧ DeriveSound s a g plan.parentWindow ∧ plan.parentWindow.depth < 5 ∧
      goodReloc g.index a.base a.limit a.reloc ∧ s.lowestFreeSlot = some plan.slot := by
  unfold deriveChecks at h
  split at h
  · cases h
  next g hparent =>
    split_ifs at h with hvalid
    split at h
    · cases h
    · cases h
    next pw hocc =>
      split at h
      · cases h
      next i hfrom =>
        cases h
        unfold deriveFrom at hfrom
        split_ifs at hfrom with hderive hbounds hwithin hperms hholders hdepth hreloc
        split at hfrom
        · cases hfrom
        next hlowest =>
          cases hfrom
          have hgen : s.windows[g.index].gen = g.gen := (validHandle_iff.mp (by simpa using hvalid)).2
          exact ⟨g, rfl, ⟨hparent, ⟨hgen, hocc⟩, by simpa using hderive, (boundsOk_iff _ _).mp (by simpa using hbounds),
            ⟨Nat.le_of_not_lt fun hb => hwithin (.inl hb), Nat.le_of_not_lt fun hb => hwithin (.inr hb)⟩,
            (perms_subset_iff _ _).mp (by simpa using hperms),
            (subsetBits_holders_iff _ _).mp (by simpa using hholders)⟩, Nat.lt_of_not_le hdepth,
            (relocOk_iff _ _ _ _).mp (by simpa using hreloc), hlowest⟩

/-- What SHRINK's checks pass (R127 to R130). -/
theorem shrinkChecks_ok {s : State} {a : ShrinkArgs} {ix : SlotIx} (h : shrinkChecks s a = .ok ix) :
    ∃ g w, g.index = ix ∧ ix ≠ 0 ∧ s.namesLive g w ∧ goodBounds a.base a.limit ∧ a.narrows w ∧
      s.childrenStillFit w a ∧ defaultsAllow s.contexts g w a = true := by
  unfold shrinkChecks at h
  split at h
  · cases h
  next g _ =>
    split_ifs at h with hvalid hroot
    split at h
    · cases h
    · cases h
    next w hocc =>
      split at h
      · cases h
      next hfails =>
        cases h
        unfold shrinkFails at hfails
        split_ifs at hfails with hbounds hnarrow hfit hdefaults
        have hgen : s.windows[g.index].gen = g.gen := (validHandle_iff.mp (by simpa using hvalid)).2
        exact ⟨g, w, rfl, hroot, ⟨hgen, hocc⟩, (boundsOk_iff _ _).mp (by simpa using hbounds),
          (isNarrower_iff _ _).mp (by simpa using hnarrow), (childrenFit_iff _ _ _).mp (by simpa using hfit),
          by simpa using hdefaults⟩

/-- What REVOKE's checks pass (R138, R139). -/
theorem revokeChecks_live {s : State} {arg : Option Handle} {g : Handle} (h : revokeChecks s arg = .ok g) :
    g.index ≠ 0 ∧ (∃ w, s.namesLive g w) ∧ s.revocationRoom g.index = true := by
  obtain rfl := revokeChecks_ok h
  simp only [revokeChecks] at h
  split_ifs at h with hvalid hroot hrevoking hroom
  refine ⟨hroot, ?_, by simpa using hroom⟩
  rcases handle_cases s g with hstale | hlive | hrev
  · rw [not_validHandle_of_stale hstale] at hvalid
    exact absurd rfl hvalid
  · exact hlive
  · exact absurd (isRevoking_iff.mpr hrev.2) hrevoking

/-! ### LIVE windows and their holders -/

/-- Every LIVE window stays LIVE under its generation, with the same holders. -/
def KeepsHolders (s t : State) : Prop :=
  ∀ (i : SlotIx) (w : Window), s.windows[i].occ = .live w →
    t.windows[i].gen = s.windows[i].gen ∧ ∃ v, t.windows[i].occ = .live v ∧ v.holders = w.holders

theorem mapWindow_live {v : WindowSlot} {w : Window} (f : Window → Window) (h : v.occ = .live w) :
    (v.mapWindow f).gen = v.gen ∧ (v.mapWindow f).occ = .live (f w) := by
  simp [WindowSlot.mapWindow, h]

theorem mapWindow_revoking {v : WindowSlot} {w : Window} {c : SlotIx} (f : Window → Window)
    (h : v.occ = .revoking w c) : (v.mapWindow f).gen = v.gen ∧ (v.mapWindow f).occ = .revoking (f w) c := by
  simp [WindowSlot.mapWindow, h]

namespace KeepsHolders

variable {s t : State}

theorem of_eq (h : t.windows = s.windows := by rfl) : KeepsHolders s t :=
  fun i w hw => by rw [h]; exact ⟨rfl, w, hw, rfl⟩

theorem of_slots (h : ∀ i : SlotIx, ∃ f : Window → Window, (∀ w, (f w).holders = w.holders) ∧
    t.windows[i] = s.windows[i].mapWindow f) : KeepsHolders s t := by
  intro i w hw
  obtain ⟨f, hf, hi⟩ := h i
  obtain ⟨hgen, hocc⟩ := mapWindow_live f hw
  rw [hi]
  exact ⟨hgen, f w, hocc, hf w⟩

theorem of_updAt {ix : SlotIx} {f : Window → Window} (h : t.windows = updAt s.windows ix (WindowSlot.mapWindow f))
    (hf : ∀ w, (f w).holders = w.holders) : KeepsHolders s t := by
  intro i w hw
  rw [h, updAt_get]
  split
  next hi =>
    subst hi
    obtain ⟨hgen, hocc⟩ := mapWindow_live f hw
    exact ⟨hgen, f w, hocc, hf w⟩
  next => exact ⟨rfl, w, hw, rfl⟩

end KeepsHolders

/-! ### The law over effects -/

/-- The handle is a current or pending default of the initiator. -/
def Context.defaultsTo (c : Context) (h : Handle) : Prop :=
  c.current = some h ∨ ∃ p, c.rebind.pending? = some p ∧ p.target = some h

theorem Context.namesDefault_of_defaultsTo {c : Context} {h : Handle} (hd : c.defaultsTo h) :
    c.namesDefault h = true := by
  rcases hd with hd | ⟨p, hp, ht⟩
  · simp [Context.namesDefault, hd]
  · simp [Context.namesDefault, hp, ht]

namespace DefaultLaw

variable {s t : State}

theorem congr (h : DefaultLaw s)
    (hcontexts : ∀ (n : Initiator) (g : Handle), t.contexts[n].defaultsTo g → s.contexts[n].defaultsTo g)
    (hwindows : KeepsHolders s t) :
    DefaultLaw t := by
  intro n g hg
  obtain ⟨hgen, w, hocc, hholder⟩ := h n g (hcontexts n g hg)
  obtain ⟨hgen', v, hocc', hsame⟩ := hwindows g.index w hocc
  exact ⟨hgen'.trans hgen, v, hocc', by rw [hsame]; exact hholder⟩

theorem of_windows (h : DefaultLaw s) (hwindows : KeepsHolders s t) (hcontexts : t.contexts = s.contexts := by rfl) :
    DefaultLaw t :=
  h.congr (fun n g hg => by rwa [hcontexts] at hg) hwindows

theorem of_eq (h : DefaultLaw s) (hcontexts : t.contexts = s.contexts := by rfl)
    (hwindows : t.windows = s.windows := by rfl) : DefaultLaw t :=
  h.of_windows (.of_eq hwindows) hcontexts

/-- One context changes, and each default it then names is an old one, or a LIVE window's that it holds. -/
theorem of_updAt (h : DefaultLaw s) {n : Initiator} {f : Context → Context}
    (hcontexts : t.contexts = updAt s.contexts n f)
    (hf : ∀ g, (f s.contexts[n]).defaultsTo g → s.contexts[n].defaultsTo g ∨
      ∃ w, s.namesLive g w ∧ w.holders.getLsbD n.val = true) (hwindows : t.windows = s.windows := by rfl) :
    DefaultLaw t := by
  intro m g hg
  change t.contexts[m].defaultsTo g at hg
  rw [hcontexts, updAt_get] at hg
  rw [hwindows]
  split at hg
  next hm =>
    rcases hf g hg with hold | ⟨w, ⟨hgen, hocc⟩, hholder⟩
    · exact hm ▸ h n g hold
    · exact ⟨hgen, w, hocc, hm ▸ hholder⟩
  next => exact h m g hg

theorem runEdges (h : DefaultLaw s) (own : State → SpiEdge → Bool) (edges : List SpiEdge) :
    DefaultLaw (Machine.runEdges own edges s) :=
  h.of_eq (runEdges_contexts own edges s) (runEdges_windows own edges s)

theorem expireDrains (h : DefaultLaw s) : DefaultLaw s.expireDrains := by
  refine h.congr (fun n g hg => ?_) .of_eq
  have hget : s.expireDrains.contexts[n] = { s.contexts[n] with rebind := s.contexts[n].rebind.expire } := by
    simp [State.expireDrains]
  rw [hget] at hg
  refine hg.imp id ?_
  rintro ⟨p, hp, ht⟩
  change s.contexts[n].rebind.expire.pending? = some p at hp
  unfold Rebind.expire at hp
  split at hp
  next q hq =>
    rw [hq]
    refine ⟨q, rfl, ?_⟩
    split at hp <;> cases hp <;> exact ht
  next => exact ⟨p, hp, ht⟩

theorem tickNow (h : DefaultLaw s) : DefaultLaw s.tickNow := by
  refine h.congr (fun n g hg => ?_) (.of_eq s.tickNow_windows)
  have hget : s.tickNow.contexts[n] =
      { s.contexts[n] with rebind := s.contexts[n].rebind.tick s.settings.drainDeadline } := by
    simp [State.tickNow]
  rw [hget] at hg
  refine hg.imp id ?_
  rintro ⟨p, hp, ht⟩
  change (s.contexts[n].rebind.tick s.settings.drainDeadline).pending? = some p at hp
  cases hr : s.contexts[n].rebind <;> rw [hr] at hp <;> cases hp <;> exact ⟨_, rfl, ht⟩

theorem kept : Kept DefaultLaw where
  pending _ _ h := h.of_eq
  counts _ h _ := h.of_eq
  holdEnds s h dnReady := h.of_eq (endHold_contexts s dnReady) (endHold_windows s dnReady)
  responsesExpire _ h := h.of_eq
  drainsExpire _ h := h.expireDrains
  stallsExpire _ h := h.of_eq
  ticks _ h := h.tickNow

/-! ### Reset -/

theorem assertReset (s : State) : DefaultLaw s.assertReset := by
  intro n g hg
  have hget : s.assertReset.contexts[n] = resetContext := by simp [State.assertReset, State.reset]
  rw [hget] at hg
  rcases hg with hg | ⟨p, hp, -⟩
  · cases hg
  · cases hp

/-- The boot initiator's default is the root, which every initiator holds (R4, R55). -/
theorem releaseReset (s : State) (bootEn : Bool) (bootId : Initiator) (csLow : Bool) (hr : s.resetn = false) :
    DefaultLaw (s.releaseReset bootEn bootId csLow) := by
  unfold State.releaseReset
  rw [if_neg (by simp [hr])]
  intro n g hg
  dsimp only at hg
  rw [Fin.getElem_fin, Vector.getElem_ofFn] at hg
  unfold bootContext at hg
  split at hg
  · rcases hg with hg | ⟨p, hp, -⟩
    · cases hg
      refine ⟨rfl, rootWindow, rfl, ?_⟩
      exact (by decide : ∀ m : Initiator, rootWindow.holders.getLsbD m.val = true) n
    · cases hp
  · rcases hg with hg | ⟨p, hp, -⟩
    · cases hg
    · cases hp

/-! ### Admission, responses and deliveries -/

theorem admits (h : DefaultLaw s) (n : Initiator) (u : Tag) (r : Request) (ix : SlotIx) :
    DefaultLaw ((s.leaveLane n).enterAdmitted n r u ix) := by
  refine h.congr (fun m g hg => ?_) (.of_updAt (ix := ix) (f := addInFlight) rfl fun _ => rfl)
  have hcurrent := enterAdmitted_sameDefaults (s.leaveLane n) n r u ix m
  have hrebind := (TrackerLaw.enter_undelivered (s.leaveLane n) n m u (.queued ⟨n, ix, r.kind, r.addr, r.len⟩ r.data)).2
  exact hg.imp (fun hc => hcurrent ▸ hc) fun ⟨p, hp, ht⟩ => ⟨p, hrebind ▸ hp, ht⟩

theorem refuses (h : DefaultLaw s) (n : Initiator) (u : Tag) (r : Request) (kind : EventKind)
    (window : Option SlotIx) : DefaultLaw ((s.leaveLane n).refuse n r u kind window) := by
  refine h.congr (fun m g hg => ?_) (.of_eq (refuse_windows (s.leaveLane n) n r u kind window))
  have hcurrent := refuse_sameDefaults (s.leaveLane n) n r u kind window m
  have hrebind := ((TrackerLaw.refuse_fields (s.leaveLane n) n r u kind window).2.2.2.2 m).2
  exact hg.imp (fun hc => hcurrent ▸ hc) fun ⟨p, hp, ht⟩ => ⟨p, hrebind ▸ hp, ht⟩

/-- A commit makes a pending default current, and no other (R66). -/
theorem deliverHead (h : DefaultLaw s) (n : Initiator) (u : Tag) : DefaultLaw (s.deliverHead n u) := by
  have hup : DefaultLaw (s.handUp n u) := h.of_updAt (handUp_contexts s n u) fun g hg => .inl hg
  unfold State.deliverHead
  dsimp only
  split
  next p hdue =>
    refine hup.of_updAt (commit_contexts _ n p) fun g hg => .inl (.inr ?_)
    rcases hg with hg | ⟨q, hq, -⟩
    · exact ⟨p, (commitDue_some.mp hdue).2, hg⟩
    · cases hq
  next => exact hup

/-! ### Windows -/

theorem not_coveredBy_of_live {v : WindowSlot} {w : Window} {root : SlotIx} (h : v.occ = .live w) :
    ¬v.coveredBy root = true := by
  rw [coveredBy_iff, h]
  exact nofun

theorem freeSubtree_holders (s : State) (pos : Nat) (e : RevEntry) : KeepsHolders s (s.freeSubtree pos e) := by
  intro i w hw
  rw [freeSubtree_windows, Fin.getElem_fin, Vector.getElem_ofFn]
  change (freedSlot s.windows e.root.index i).gen = _ ∧ ∃ v, (freedSlot s.windows e.root.index i).occ = _ ∧ _
  unfold freedSlot
  rw [if_neg (not_coveredBy_of_live hw)]
  split
  · obtain ⟨hgen, hocc⟩ := mapWindow_live
      (fun w : Window => { w with children := w.children &&& ~~~slotBit e.root.index }) hw
    exact ⟨hgen, _, hocc, rfl⟩
  · exact ⟨rfl, w, hw, rfl⟩

theorem allocate_holders {plan : DerivePlan} (a : DeriveArgs) (hfree : s.windows[plan.slot].occ = .free) :
    KeepsHolders s (s.allocate plan a) := by
  intro i w hw
  have hne : i ≠ plan.slot := by
    rintro rfl
    rw [hfree] at hw
    cases hw
  unfold State.allocate
  dsimp only
  rw [updAt_other _ _ _ _ hne, updAt_get]
  split
  next hi =>
    subst hi
    obtain ⟨hgen, hocc⟩ := mapWindow_live
      (fun w : Window => { w with children := w.children ||| slotBit plan.slot }) hw
    exact ⟨hgen, _, hocc, rfl⟩
  next => exact ⟨rfl, w, hw, rfl⟩

theorem startReset_holders (s : State) : KeepsHolders s s.startReset :=
  .of_slots fun i => ⟨subInFlight (heldBy s.tracker i), fun _ => rfl, CountLaw.startReset_windows s i⟩

/-- A SHRINK that removes a holder found that it has no default there (R130). -/
theorem narrowWindow (h : DefaultLaw s) {ix : SlotIx} {a : ShrinkArgs} (hchecks : shrinkChecks s a = .ok ix) :
    DefaultLaw (s.narrowWindow ix a) := by
  obtain ⟨g, w, rfl, -, ⟨hgen, hocc⟩, -, -, -, hallow⟩ := shrinkChecks_ok hchecks
  intro n d hd
  obtain ⟨hdgen, v, hdocc, hholder⟩ := h n d hd
  unfold State.narrowWindow
  dsimp only
  rw [updAt_get]
  split
  next hi =>
    obtain rfl : d = g := by
      obtain ⟨di, dg⟩ := d
      obtain ⟨gi, gg⟩ := g
      obtain rfl : di = gi := hi
      rw [show dg = gg from hdgen.symm.trans hgen]
    obtain rfl : v = w := by rw [hocc] at hdocc; cases hdocc; rfl
    obtain ⟨hsame, hlive⟩ := mapWindow_live (narrow a) hocc
    refine ⟨hsame.trans hgen, narrow a v, hlive, ?_⟩
    have hn := List.all_eq_true.mp hallow n (List.mem_finRange n)
    have hnames : s.contexts[n].namesDefault d = true := Context.namesDefault_of_defaultsTo hd
    rw [hholder, hnames] at hn
    change a.holders.getLsbD n.val = true
    cases hkept : a.holders.getLsbD n.val with
    | true => rfl
    | false => rw [hkept] at hn; cases hn
  next => exact ⟨hdgen, v, hdocc, hholder⟩

theorem afterRevoke_defaultsTo {m : BitVec 64} {c : Context} {d : Handle} (h : (c.afterRevoke m).defaultsTo d) :
    c.defaultsTo d ∧ m.getLsbD d.index.val = false := by
  rcases h with hc | ⟨p, hp, ht⟩
  · change (if inSet m c.current then none else c.current) = some d at hc
    split at hc
    · cases hc
    next hin => exact ⟨.inl hc, by rw [hc] at hin; exact Bool.eq_false_iff.mpr hin⟩
  · change (if (c.discarded m).isSome then Rebind.none else c.rebind).pending? = some p at hp
    split at hp
    · cases hp
    next hkept =>
      refine ⟨.inr ⟨p, hp, ht⟩, Bool.eq_false_iff.mpr fun hin => hkept ?_⟩
      have hset : inSet m p.target = true := by rw [ht]; exact hin
      simp only [Context.discarded, hp, hset, if_true, Option.isSome_some]

/-- An acceptance leaves no default in the subtree that it marks (R72). -/
theorem acceptRevoke (h : DefaultLaw s) (root : Handle) (k : RespIx) : DefaultLaw (s.acceptRevoke root k) := by
  set m := subtreeOf s.windows root.index with hm
  intro n d hd
  have hget : (s.acceptRevoke root k).contexts[n] = s.contexts[n].afterRevoke m := by
    rw [acceptRevoke_contexts]; simp [hm]
  change (s.acceptRevoke root k).contexts[n].defaultsTo d at hd
  rw [hget] at hd
  have hold := afterRevoke_defaultsTo hd
  obtain ⟨hgen, w, hocc, hholder⟩ := h n d hold.1
  have hslot : (s.acceptRevoke root k).windows[d.index] = s.windows[d.index] := by
    rw [acceptRevoke_windows, Fin.getElem_fin, Vector.getElem_ofFn, ← hm]
    change markSlot m root.index d.index s.windows[d.index] = s.windows[d.index]
    unfold markSlot
    rw [if_neg (by rw [hold.2]; exact Bool.false_ne_true)]
  rw [hslot]
  exact ⟨hgen, w, hocc, hholder⟩

/-! ### Bindings -/

/-- A binding that passed names a LIVE window that the initiator holds (R62). -/
theorem live_of_bindPasses {n : Initiator} {b : Binding} {g : Handle} (h : BindPasses s n b (some g)) :
    ∃ w, s.namesLive g w ∧ w.holders.getLsbD n.val = true := by
  cases h with
  | handle _ w hlive hholder => exact ⟨w, hlive, hholder⟩

theorem binds (h : DefaultLaw s) {n : Initiator} {b : Binding} {target : Option Handle}
    (hb : BindPasses s n b target) (hcontexts : t.contexts = updAt s.contexts n fun c => { c with current := target })
    (hwindows : t.windows = s.windows) : DefaultLaw t := by
  refine h.of_updAt hcontexts (fun g hg => ?_) hwindows
  rcases hg with hg | hg
  · change target = some g at hg
    subst hg
    exact .inr (live_of_bindPasses hb)
  · exact .inl (.inr hg)

theorem stages (h : DefaultLaw s) {n : Initiator} {b : Binding} {target : Option Handle}
    (hb : BindPasses s n b target) (k : RespIx) : DefaultLaw (s.stage n k target) := by
  have hstaged (r : Rebind) (hr : r.pending? = some ⟨target, k, 0, false⟩) :
      DefaultLaw (s.updContext n fun c => { c with rebind := r }) := by
    refine h.of_updAt (n := n) (f := fun c => { c with rebind := r }) rfl fun g hg => ?_
    rcases hg with hg | ⟨p, hp, ht⟩
    · exact .inl (.inl hg)
    · obtain rfl := Option.some.inj (hr.symm.trans hp)
      change target = some g at ht
      subst ht
      exact .inr (live_of_bindPasses hb)
  unfold State.stage
  dsimp only
  split
  · exact (hstaged (.fencing ⟨target, k, 0, false⟩) rfl).of_eq
  · exact hstaged (.staged ⟨target, k, 0, false⟩) rfl

theorem replaces (h : DefaultLaw s) {n : Initiator} {b : Binding} {target : Option Handle}
    (hb : BindPasses s n b target) (k : RespIx) (old : Pending) : DefaultLaw (s.replaceBinding n k target old) := by
  refine h.of_updAt (replaceBinding_contexts s n k target old) fun g hg => ?_
  rcases hg with hg | ⟨p, hp, ht⟩
  · exact .inl (.inl hg)
  · change (s.contexts[n].rebind.retarget target k).pending? = some p at hp
    rw [Rebind.pending_retarget] at hp
    obtain ⟨q, -, rfl⟩ := Option.map_eq_some_iff.mp hp
    change target = some g at ht
    subst ht
    exact .inr (live_of_bindPasses hb)

theorem effects (h : DefaultLaw s) : Effects s fun _ t => DefaultLaw t where
  idle _ := h
  asserts := assertReset s
  releases bootEn bootId csLow hr := releaseReset s bootEn bootId csLow hr
  ticks := (kept.settle h).tickNow
  arrives _ _ _ _ := h.of_eq
  admits n u r _ ix _ _ _ _ := h.admits n u r ix
  refuses n u r _ kind window _ _ _ _ := h.refuses n u r kind window
  issues _ _ _ _ _ _ _ := h.of_eq
  completes u x _ _ status data _ _ :=
    h.of_windows (.of_updAt (timely_windows s u x status data) fun _ => rfl) (timely_contexts s u x status data)
  late u x after _ _ _ _ := h.of_windows (.of_updAt (late_windows s u x after) fun _ => rfl)
  strays _ _ _ := h.of_eq
  responsesExpire := h.of_eq
  delivers _ _ n u _ _ _ _ _ := h.deliverHead n u
  drainsExpire := h.expireDrains
  stallsExpire := h.of_eq
  frees pos e _ _ := h.of_windows (freeSubtree_holders s pos.val e) (s.freeSubtree_contexts pos.val e)
  holdEnds dnReady := h.of_eq (endHold_contexts s dnReady) (endHold_windows s dnReady)
  becomesReady _ := h.of_eq
  commandEdges edges := h.runEdges _ edges
  typeEdges := h.runEdges _ _
  fetchEdges edges := h.runEdges _ edges
  answers _ _ _ _ _ _ := h.of_eq
  derives f rest k a _ p _ _ hd :=
    (h.of_eq (t := s.answered f rest k .done p)).of_windows (allocate_holders a (deriveChecks_slot_free hd))
  shrinks f rest k _ _ _ _ hchecks := (h.of_eq (t := s.answered f rest k .done [])).narrowWindow hchecks
  accepts f rest k g _ _ _ := (h.of_eq (t := s.deferred f rest k)).acceptRevoke g k
  replaces f rest k _ _ old _ _ hchecks _ :=
    (h.of_eq (t := s.deferred f rest k)).replaces (bindPasses_of_checks hchecks) k old
  binds _ _ _ _ _ _ _ hchecks _ _ := h.binds (bindPasses_of_checks hchecks) rfl rfl
  stages f rest k _ _ _ _ hchecks _ _ := (h.of_eq (t := s.deferred f rest k)).stages (bindPasses_of_checks hchecks) k
  setsInitiator _ _ _ n st po _ _ :=
    h.of_updAt (n := n) (f := fun c => { c with state := st, policy := po }) rfl fun _ hg => .inl hg
  startsReset f rest k _ _ _ := by
    have hstart := (h.of_eq (t := s.deferred f rest k)).of_windows (startReset_holders _) (State.startReset_contexts _)
    exact hstart
  joinsReset _ _ _ _ _ _ := h.of_eq
  setsControl _ _ _ _ _ _ _ := h.of_eq
  readsEvent _ _ _ _ _ _ _ _ := h.of_eq

end DefaultLaw

/-- Settles O9: a default begins where the checks found its window LIVE and held, and no effect takes that away while
the default stays. -/
theorem stepKeepsDefaultLaw : Obligations.StepKeepsDefaultLaw := by
  unfold Obligations.StepKeepsDefaultLaw
  exact fun _ _ h hx => DefaultLaw.kept.step (fun _ hs => hs.effects) h hx

end Sys2Proof.Machine

/-! SUPPORT. The derivation tree (R10, R140): the computed subtree is the reachable set, and the law of the tree and of
the revocation list over it is kept by every effect. -/

namespace Sys2Proof.Machine

/- One proof after another: a thread for each at once is more than a machine holds. -/
set_option Elab.async false

/-! ### The subtree of a window (R140) -/

theorem getLsbD_slotBit (i j : SlotIx) : (slotBit i).getLsbD j.val = true ↔ i = j := by
  rw [slotBit, BitVec.getLsbD_twoPow, Bool.and_eq_true, decide_eq_true_eq, decide_eq_true_eq, Fin.ext_iff]
  exact and_iff_right i.isLt

/-- One level down: the members of the set and their children. -/
theorem getLsbD_growSubtree (t : Vector WindowSlot 64) (m : BitVec 64) (i : SlotIx) :
    (growSubtree t m).getLsbD i.val = true ↔
      m.getLsbD i.val = true ∨ ∃ p : SlotIx, m.getLsbD p.val = true ∧ childIn t p i := by
  have fold (l : List SlotIx) : ∀ acc : BitVec 64,
      (l.foldl (fun acc p => if m.getLsbD p.val then acc ||| t[p].children else acc) acc).getLsbD i.val = true ↔
        acc.getLsbD i.val = true ∨ ∃ p ∈ l, m.getLsbD p.val = true ∧ childIn t p i := by
    induction l with
    | nil => intro acc; exact ⟨.inl, fun h => h.elim id fun ⟨_, hp, _⟩ => nomatch hp⟩
    | cons q l ih =>
      intro acc
      rw [List.foldl_cons, ih, List.exists_mem_cons_iff]
      cases hq : m.getLsbD q.val with
      | false => rw [if_neg Bool.false_ne_true]; simp only [Bool.false_eq_true, false_and, false_or]
      | true =>
        rw [if_pos rfl, BitVec.getLsbD_or, Bool.or_eq_true, or_assoc]
        simp only [true_and]
        exact Iff.rfl
  unfold growSubtree
  rw [fold]
  simp only [List.mem_finRange, true_and]

/-- The members of a slot set. -/
def slotSet (m : BitVec 64) : Finset SlotIx :=
  Finset.univ.filter fun i => m.getLsbD i.val = true

theorem mem_slotSet {m : BitVec 64} {i : SlotIx} : i ∈ slotSet m ↔ m.getLsbD i.val = true := by
  simp only [slotSet, Finset.mem_filter, Finset.mem_univ, true_and]

theorem slotSet_injective {m m' : BitVec 64} (h : slotSet m = slotSet m') : m = m' := by
  refine BitVec.eq_of_getLsbD_eq fun i hi => Bool.eq_iff_iff.mpr ?_
  have := Finset.ext_iff.mp h ⟨i, hi⟩
  rwa [mem_slotSet, mem_slotSet] at this

theorem slotSet_subset_grow (t : Vector WindowSlot 64) (m : BitVec 64) : slotSet m ⊆ slotSet (growSubtree t m) :=
  fun i hi => mem_slotSet.mpr ((getLsbD_growSubtree t m i).mpr (.inl (mem_slotSet.mp hi)))

theorem closeSubtree_contains (t : Vector WindowSlot 64) (fuel : Nat) :
    ∀ m : BitVec 64, slotSet m ⊆ slotSet (closeSubtree t fuel m) := by
  induction fuel with
  | zero => exact fun m => subset_rfl
  | succ fuel ih =>
    intro m
    unfold closeSubtree
    dsimp only
    split
    · exact subset_rfl
    · exact (slotSet_subset_grow t m).trans (ih _)

/-- Each round that is not the last adds a member, so that rounds for all slots outside the set close it. -/
theorem closeSubtree_closed (t : Vector WindowSlot 64) (fuel : Nat) :
    ∀ m : BitVec 64, 64 ≤ fuel + (slotSet m).card →
      growSubtree t (closeSubtree t fuel m) = closeSubtree t fuel m := by
  induction fuel with
  | zero =>
    intro m hm
    have hall : slotSet m = Finset.univ :=
      Finset.eq_univ_of_card _ (le_antisymm (Finset.card_le_univ _) (by simpa using hm))
    have hgrown : slotSet (growSubtree t m) = Finset.univ :=
      Finset.univ_subset_iff.mp (hall ▸ slotSet_subset_grow t m)
    exact slotSet_injective (hgrown.trans hall.symm)
  | succ fuel ih =>
    intro m hm
    unfold closeSubtree
    dsimp only
    split
    next hfixed => exact eq_of_beq hfixed
    next hgrows =>
      refine ih _ ?_
      have hstrict : slotSet m ⊂ slotSet (growSubtree t m) := by
        refine (slotSet_subset_grow t m).ssubset_of_ne fun he => hgrows ?_
        rw [← slotSet_injective he, beq_self_eq_true]
      have := Finset.card_lt_card hstrict
      omega

theorem subtreeOf_self (t : Vector WindowSlot 64) (ix : SlotIx) : (subtreeOf t ix).getLsbD ix.val = true :=
  mem_slotSet.mp (closeSubtree_contains t 64 _ (mem_slotSet.mpr ((getLsbD_slotBit ix ix).mpr rfl)))

/-- A subtree holds the children of its members. -/
theorem subtreeOf_child {t : Vector WindowSlot 64} {ix p i : SlotIx} (hp : (subtreeOf t ix).getLsbD p.val = true)
    (hc : childIn t p i) : (subtreeOf t ix).getLsbD i.val = true := by
  unfold subtreeOf at hp ⊢
  rw [← closeSubtree_closed t 64 (slotBit ix) (by omega)]
  exact (getLsbD_growSubtree t _ i).mpr (.inr ⟨p, hp, hc⟩)

/-- The computed subtree is the reachable set (R140). -/
theorem subtreeOf_iff (t : Vector WindowSlot 64) (ix i : SlotIx) :
    (subtreeOf t ix).getLsbD i.val = true ↔ Relation.ReflTransGen (childIn t) ix i := by
  constructor
  · exact subtreeOf_inherits (P := fun j => Relation.ReflTransGen (childIn t) ix j) (fun _ _ hp hc => hp.tail hc) .refl
  · intro h
    induction h with
    | refl => exact subtreeOf_self t ix
    | tail _ hc ih => exact subtreeOf_child ih hc

/-- Settles O48: a fixed point of the rounds is reached, as each adds a slot until then. -/
theorem subtreeIsTheReachableSet : Obligations.SubtreeIsTheReachableSet := by
  unfold Obligations.SubtreeIsTheReachableSet
  exact subtreeOf_iff

/-! ### Slots and their windows -/

theorem window_of_live {v : WindowSlot} {w : Window} (h : v.occ = .live w) : v.occ.window? = some w := by
  rw [h]; rfl

theorem window_of_revoking {v : WindowSlot} {w : Window} {c : SlotIx} (h : v.occ = .revoking w c) :
    v.occ.window? = some w := by
  rw [h]; rfl

/-- A slot with a window is LIVE or REVOKING. -/
theorem live_or_revoking {v : WindowSlot} {w : Window} (h : v.occ.window? = some w) :
    v.occ = .live w ∨ ∃ c, v.occ = .revoking w c := by
  cases ho : v.occ <;> rw [ho] at h <;> cases h
  · exact .inl rfl
  · exact .inr ⟨_, rfl⟩

theorem children_of_window {v : WindowSlot} {w : Window} (h : v.occ.window? = some w) : v.children = w.children := by
  simp only [WindowSlot.children, h]

/-- The child of a window, read off the children set of the window. -/
theorem childIn_iff {t : Vector WindowSlot 64} {p i : SlotIx} {v : Window} (h : t[p].occ.window? = some v) :
    childIn t p i ↔ v.children.getLsbD i.val = true := by
  rw [childIn, children_of_window h]

/-- Only a slot with a window has children. -/
theorem window_of_childIn {t : Vector WindowSlot 64} {p i : SlotIx} (h : childIn t p i) :
    ∃ v, t[p].occ.window? = some v ∧ v.children.getLsbD i.val = true := by
  unfold childIn WindowSlot.children at h
  split at h
  next v hv => exact ⟨v, hv, h⟩
  next => rw [BitVec.getLsbD_zero] at h; cases h

/-! ### What the law of the tree says about reaching -/

namespace WindowLaw

variable {s : State} (h : WindowLaw s)

include h

theorem root_live : ∃ w, s.windows[(0 : SlotIx)].occ = .live w := by
  obtain ⟨-, c, f, ho⟩ := h.root
  exact ⟨_, ho⟩

theorem root_not_revoking {w : Window} {c : SlotIx} : s.windows[(0 : SlotIx)].occ ≠ .revoking w c := by
  obtain ⟨v, hv⟩ := h.root_live
  rw [hv]
  exact nofun

/-- A child in the table has its parent as its window says, and is one deeper. -/
theorem of_childIn {p i : SlotIx} (hc : childIn s.windows p i) :
    i ≠ 0 ∧ ∃ v w, s.windows[p].occ.window? = some v ∧ s.windows[i].occ.window? = some w ∧ w.parent = some p ∧
      w.childOf i p v := by
  obtain ⟨v, hv, hbit⟩ := window_of_childIn hc
  obtain ⟨hi, w, hw, hparent⟩ := h.child p i v hv hbit
  obtain ⟨q, u, hq, hu, hchild⟩ := h.parent i w hi hw
  obtain rfl : p = q := Option.some.inj (hparent.symm.trans hq)
  obtain rfl : v = u := Option.some.inj (hv.symm.trans hu)
  exact ⟨hi, v, w, hv, hw, hparent, hchild⟩

/-- What is reached from a window is at least as deep. -/
theorem depth_le {i j : SlotIx} {w : Window} (hreach : Relation.ReflTransGen (childIn s.windows) i j)
    (hi : s.windows[i].occ.window? = some w) : ∃ v, s.windows[j].occ.window? = some v ∧ w.depth ≤ v.depth := by
  induction hreach with
  | refl => exact ⟨w, hi, le_rfl⟩
  | tail _ hc ih =>
    obtain ⟨v, hv, hle⟩ := ih
    obtain ⟨-, v', u, hv', hu, -, hchild⟩ := h.of_childIn hc
    obtain rfl : v = v' := Option.some.inj (hv.symm.trans hv')
    exact ⟨u, hu, hle.trans (by rw [hchild.2.1]; exact Nat.le_succ _)⟩

/-- A member of a subtree other than its top has its parent in it. -/
theorem parent_mem {ix i p : SlotIx} {w : Window} (hi : (subtreeOf s.windows ix).getLsbD i.val = true) (hne : i ≠ ix)
    (hw : s.windows[i].occ.window? = some w) (hp : w.parent = some p) :
    (subtreeOf s.windows ix).getLsbD p.val = true := by
  rw [subtreeOf_iff] at hi ⊢
  cases hi with
  | refl => exact absurd rfl hne
  | tail hreach hc =>
    obtain ⟨-, -, w', -, hw', hp', -⟩ := h.of_childIn hc
    obtain rfl : w = w' := Option.some.inj (hw.symm.trans hw')
    obtain rfl := Option.some.inj (hp.symm.trans hp')
    exact hreach

/-- The root is in no other window's subtree. -/
theorem root_not_mem {ix : SlotIx} (hix : ix ≠ 0) : (subtreeOf s.windows ix).getLsbD (0 : SlotIx).val = false := by
  refine Bool.eq_false_iff.mpr fun h0 => ?_
  rcases ((subtreeOf_iff _ _ _).mp h0).cases_tail with he | ⟨p, -, hc⟩
  · exact hix he.symm
  · exact (h.of_childIn hc).1 rfl

/-- The parent of a window other than the root. -/
theorem childIn_parent {i : SlotIx} {w : Window} (hi : i ≠ 0) (hw : s.windows[i].occ.window? = some w) :
    ∃ p v, w.parent = some p ∧ s.windows[p].occ.window? = some v ∧ w.childOf i p v ∧ childIn s.windows p i := by
  obtain ⟨p, v, hp, hv, hchild⟩ := h.parent i w hi hw
  exact ⟨p, v, hp, hv, hchild, (childIn_iff hv).mpr hchild.1⟩

/-- A REVOKING window is reached from the root of its covering revocation. -/
theorem reach_of_covered {c : SlotIx} : ∀ (d : Nat) {i : SlotIx} {w : Window}, w.depth ≤ d →
    s.windows[i].occ = .revoking w c → Relation.ReflTransGen (childIn s.windows) c i := by
  intro d
  induction d with
  | zero =>
    intro i w hd hi
    have hi0 : i ≠ 0 := by rintro rfl; exact h.root_not_revoking hi
    obtain ⟨p, v, -, -, hchild, -⟩ := h.childIn_parent hi0 (window_of_revoking hi)
    have := hchild.2.1
    omega
  | succ d ih =>
    intro i w hd hi
    by_cases hic : i = c
    · rw [hic]
    · have hi0 : i ≠ 0 := by rintro rfl; exact h.root_not_revoking hi
      obtain ⟨p, v, hp, hv, hchild, hc⟩ := h.childIn_parent hi0 (window_of_revoking hi)
      obtain ⟨q, u, hq, hu⟩ := h.revoking_up i c w hi hic
      obtain rfl : p = q := Option.some.inj (hp.symm.trans hq)
      obtain rfl : v = u := Option.some.inj (hv.symm.trans (window_of_revoking hu))
      have hdepth := hchild.2.1
      exact (ih (by omega) hu).tail hc

/-- The parent of a LIVE window is LIVE. -/
theorem parent_live {i : SlotIx} {w : Window} (hi : i ≠ 0) (hw : s.windows[i].occ = .live w) :
    ∃ p v, w.parent = some p ∧ s.windows[p].occ = .live v ∧ w.childOf i p v ∧ childIn s.windows p i := by
  obtain ⟨p, v, hp, hv, hchild, hc⟩ := h.childIn_parent hi (window_of_live hw)
  rcases live_or_revoking hv with hlive | ⟨c, hrev⟩
  · exact ⟨p, v, hp, hlive, hchild, hc⟩
  · obtain ⟨u, hu⟩ := h.revoking_down p i c v hrev hchild.1
    rw [hw] at hu
    cases hu

end WindowLaw

/-! ### Effects that leave the tree -/

/-- Two windows alike but for their in-flight counts. -/
def Window.Alike (w v : Window) : Prop :=
  v = { w with inFlight := v.inFlight }

theorem Window.Alike.symm {w v : Window} (h : w.Alike v) : v.Alike w := by
  unfold Window.Alike at *
  rw [h]

/-- Two window tables alike but for in-flight counts. -/
def SameTree (t t' : Vector WindowSlot 64) : Prop :=
  ∀ i : SlotIx, ∃ f : Window → Window, (∀ w : Window, w.Alike (f w)) ∧ t'[i] = t[i].mapWindow f

namespace SameTree

variable {t t' : Vector WindowSlot 64}

theorem of_eq (h : t' = t) : SameTree t t' :=
  fun i => ⟨id, fun _ => rfl, by rw [h]; cases ho : t[i] with | mk g o => cases o <;> rfl⟩

theorem of_updAt {ix : SlotIx} {f : Window → Window} (h : t' = updAt t ix (WindowSlot.mapWindow f))
    (hf : ∀ w : Window, w.Alike (f w)) : SameTree t t' := by
  intro i
  by_cases hi : i = ix
  · exact ⟨f, hf, by rw [h, hi, updAt_self]⟩
  · obtain ⟨g, hg, he⟩ := of_eq (rfl : t = t) i
    exact ⟨g, hg, by rw [h, updAt_other _ _ _ _ hi]; exact he⟩

variable (h : SameTree t t')

include h

theorem gen (i : SlotIx) : t'[i].gen = t[i].gen := by
  obtain ⟨f, -, he⟩ := h i
  rw [he]
  unfold WindowSlot.mapWindow
  split <;> rfl

theorem live {i : SlotIx} {w : Window} (hw : t[i].occ = .live w) : ∃ v, w.Alike v ∧ t'[i].occ = .live v := by
  obtain ⟨f, hf, he⟩ := h i
  exact ⟨f w, hf w, by rw [he]; exact (mapWindow_live f hw).2⟩

theorem revoking {i c : SlotIx} {w : Window} (hw : t[i].occ = .revoking w c) :
    ∃ v, w.Alike v ∧ t'[i].occ = .revoking v c := by
  obtain ⟨f, hf, he⟩ := h i
  exact ⟨f w, hf w, by rw [he]; exact (mapWindow_revoking f hw).2⟩

theorem window {i : SlotIx} {w : Window} (hw : t[i].occ.window? = some w) :
    ∃ v, w.Alike v ∧ t'[i].occ.window? = some v := by
  rcases live_or_revoking hw with hlive | ⟨c, hrev⟩
  · obtain ⟨v, ha, hv⟩ := h.live hlive
    exact ⟨v, ha, window_of_live hv⟩
  · obtain ⟨v, ha, hv⟩ := h.revoking hrev
    exact ⟨v, ha, window_of_revoking hv⟩

theorem of_live {i : SlotIx} {v : Window} (hv : t'[i].occ = .live v) : ∃ w, w.Alike v ∧ t[i].occ = .live w := by
  obtain ⟨f, hf, he⟩ := h i
  rw [he] at hv
  unfold WindowSlot.mapWindow at hv
  split at hv
  next ho => rw [ho] at hv; cases hv
  next w ho => cases hv; exact ⟨w, hf w, ho⟩
  next => cases hv

theorem of_revoking {i c : SlotIx} {v : Window} (hv : t'[i].occ = .revoking v c) :
    ∃ w, w.Alike v ∧ t[i].occ = .revoking w c := by
  obtain ⟨f, hf, he⟩ := h i
  rw [he] at hv
  unfold WindowSlot.mapWindow at hv
  split at hv
  next ho => rw [ho] at hv; cases hv
  next => cases hv
  next w c' ho => cases hv; exact ⟨w, hf w, ho⟩

theorem of_window {i : SlotIx} {v : Window} (hv : t'[i].occ.window? = some v) :
    ∃ w, w.Alike v ∧ t[i].occ.window? = some w := by
  rcases live_or_revoking hv with hlive | ⟨c, hrev⟩
  · obtain ⟨w, ha, hw⟩ := h.of_live hlive
    exact ⟨w, ha, window_of_live hw⟩
  · obtain ⟨w, ha, hw⟩ := h.of_revoking hrev
    exact ⟨w, ha, window_of_revoking hw⟩

end SameTree

theorem Window.Alike.children {w v : Window} (h : w.Alike v) : v.children = w.children := by rw [h]

theorem Window.Alike.parent {w v : Window} (h : w.Alike v) : v.parent = w.parent := by rw [h]

theorem Window.Alike.boundsLaw {w v : Window} (h : w.Alike v) (hw : w.boundsLaw) : v.boundsLaw := by
  rw [h]; exact hw

theorem Window.Alike.childOf {w w' v v' : Window} {i p : SlotIx} (h : w.Alike w') (h' : v.Alike v')
    (hc : w.childOf i p v) : w'.childOf i p v' := by
  rw [h, h']; exact hc

/-- The roots of the revocation list. -/
def State.roots (s : State) : List Handle :=
  s.revocations.map RevEntry.root

theorem WindowLaw.congr {s t : State} (h : WindowLaw s) (hsame : SameTree s.windows t.windows)
    (hroots : t.roots = s.roots) : WindowLaw t := by
  have hentry : ∀ e ∈ t.revocations, ∃ e' ∈ s.revocations, e'.root = e.root := fun e he => by
    have hm : e.root ∈ s.roots := hroots ▸ List.mem_map_of_mem he
    obtain ⟨e', he', hr⟩ := List.mem_map.mp hm
    exact ⟨e', he', hr⟩
  have hentry' : ∀ e ∈ s.revocations, ∃ e' ∈ t.revocations, e'.root = e.root := fun e he => by
    have hm : e.root ∈ t.roots := hroots.symm ▸ List.mem_map_of_mem he
    obtain ⟨e', he', hr⟩ := List.mem_map.mp hm
    exact ⟨e', he', hr⟩
  refine ⟨?_, fun i w hi hw => ?_, fun p i v hv hbit => ?_, fun i w hw => ?_, fun p i c v hv hbit => ?_,
    fun i c w hw hne => ?_, fun i c w hw => ?_, fun e he => ?_, ?_, ?_⟩
  · obtain ⟨hgen, c, f, ho⟩ := h.root
    obtain ⟨v, ha, hv⟩ := hsame.live ho
    refine ⟨(hsame.gen 0).trans hgen, c, v.inFlight, hv.trans (congrArg _ ?_)⟩
    rw [ha]
  · obtain ⟨w', ha, hw'⟩ := hsame.of_window hw
    obtain ⟨p, v, hp, hv, hchild⟩ := h.parent i w' hi hw'
    obtain ⟨v', ha', hv'⟩ := hsame.window hv
    exact ⟨p, v', ha.parent.trans hp, hv', ha.childOf ha' hchild⟩
  · obtain ⟨v', ha, hv'⟩ := hsame.of_window hv
    obtain ⟨hi, w, hw, hp⟩ := h.child p i v' hv' (ha.children ▸ hbit)
    obtain ⟨w', ha', hw'⟩ := hsame.window hw
    exact ⟨hi, w', hw', ha'.parent.trans hp⟩
  · obtain ⟨w', ha, hw'⟩ := hsame.of_window hw
    exact ha.boundsLaw (h.bounds i w' hw')
  · obtain ⟨v', ha, hv'⟩ := hsame.of_revoking hv
    obtain ⟨w, hw⟩ := h.revoking_down p i c v' hv' (ha.children ▸ hbit)
    obtain ⟨w', -, hw'⟩ := hsame.revoking hw
    exact ⟨w', hw'⟩
  · obtain ⟨w', ha, hw'⟩ := hsame.of_revoking hw
    obtain ⟨p, v, hp, hv⟩ := h.revoking_up i c w' hw' hne
    obtain ⟨v', -, hv'⟩ := hsame.revoking hv
    exact ⟨p, v', ha.parent.trans hp, hv'⟩
  · obtain ⟨w', -, hw'⟩ := hsame.of_revoking hw
    obtain ⟨e, he, hroot⟩ := h.covered i c w' hw'
    obtain ⟨e', he', hr⟩ := hentry' e he
    exact ⟨e', he', by rw [hr]; exact hroot⟩
  · obtain ⟨e', he', hr⟩ := hentry e he
    have hlaw : ∀ g : Handle, e'.root = g → s.windows[g.index].gen = g.gen ∧
        ∃ w p v, s.windows[g.index].occ = .revoking w g.index ∧ w.parent = some p ∧ s.windows[p].occ = .live v := by
      rintro _ rfl
      exact h.entries e' he'
    obtain ⟨hgen, w, p, v, hw, hp, hv⟩ := hlaw e.root hr
    obtain ⟨w', ha, hw'⟩ := hsame.revoking hw
    obtain ⟨v', -, hv'⟩ := hsame.live hv
    exact ⟨(hsame.gen _).trans hgen, w', p, v', hw', ha.parent.trans hp, hv'⟩
  · have hnodup : (s.roots.map Handle.index).Nodup := by
      rw [State.roots, List.map_map]; exact h.roots_nodup
    rw [← hroots, State.roots, List.map_map] at hnodup
    exact hnodup
  · have hlen : t.revocations.length = s.revocations.length := by
      simpa [State.roots] using congrArg List.length hroots
    rw [hlen]
    exact h.list_bound

theorem WindowLaw.of_eq {s t : State} (h : WindowLaw s) (hwindows : t.windows = s.windows := by rfl)
    (hrevs : t.revocations = s.revocations := by rfl) : WindowLaw t :=
  h.congr (.of_eq hwindows) (by rw [State.roots, hrevs, State.roots])

/-- The in-flight count of one window changes. -/
theorem WindowLaw.of_updAt {s t : State} (h : WindowLaw s) {ix : SlotIx} {f : Window → Window}
    (hwindows : t.windows = updAt s.windows ix (WindowSlot.mapWindow f)) (hf : ∀ w : Window, w.Alike (f w))
    (hrevs : t.revocations = s.revocations := by rfl) : WindowLaw t :=
  h.congr (.of_updAt hwindows hf) (by rw [State.roots, hrevs, State.roots])

end Sys2Proof.Machine

/-! SUPPORT. What the four effects on the derivation tree leave of its law: a SHRINK, an allocation, an acceptance and a
free (R11, R125, R131, R140, R146). -/

namespace Sys2Proof.Machine

/- One proof after another: a thread for each at once is more than a machine holds. -/
set_option Elab.async false

/-! ### Nested windows -/

theorem Window.inside_iff (w v : Window) : w.inside v ↔
    v.base ≤ w.base ∧ w.limit ≤ v.limit ∧ permsWithin w.perms v.perms ∧ holdersWithin w.holders v.holders := by
  rw [Window.inside, perms_subset_iff, subsetBits_holders_iff]

theorem permsWithin.trans {a b c : Perms} (h : permsWithin a b) (h' : permsWithin b c) : permsWithin a c :=
  ⟨fun x => h'.1 (h.1 x), fun x => h'.2.1 (h.2.1 x), fun x => h'.2.2 (h.2.2 x)⟩

theorem holdersWithin.trans {a b c : BitVec 8} (h : holdersWithin a b) (h' : holdersWithin b c) : holdersWithin a c :=
  fun n hn => h' n (h n hn)

theorem Window.inside.trans {u w v : Window} (h : u.inside w) (h' : w.inside v) : u.inside v := by
  rw [Window.inside_iff] at *
  exact ⟨h'.1.trans h.1, h.2.1.trans h'.2.1, h.2.2.1.trans h'.2.2.1, h.2.2.2.trans h'.2.2.2⟩

theorem slot_of_eq (t : Vector WindowSlot 64) {i j : SlotIx} (h : i = j) : t[i] = t[j] := by
  subst h
  rfl

/-! ### SHRINK -/

theorem narrow_inside {a : ShrinkArgs} {w : Window} (h : a.narrows w) : (narrow a w).inside w :=
  (Window.inside_iff _ _).mpr h

/-- A narrowed window's bounds are in place, upstream and translated (R128). -/
theorem narrow_boundsLaw {a : ShrinkArgs} {w : Window} (hw : w.boundsLaw) (hg : goodBounds a.base a.limit)
    (hn : a.narrows w) : (narrow a w).boundsLaw := by
  obtain ⟨-, -, -, -, hpage, hlow, hhigh⟩ := hw
  obtain ⟨hbase, hlimit, hlt, hle⟩ := hg
  obtain ⟨hwb, hwl, -, -⟩ := hn
  refine ⟨hbase, hlimit, hlt, hle, hpage, ?_, ?_⟩
  · have : (w.base : Int) ≤ a.base := by exact_mod_cast hwb
    exact hlow.trans (by simpa [narrow] using this)
  · have : (a.limit : Int) ≤ w.limit := by exact_mod_cast hwl
    exact le_trans (by simpa [narrow] using this) hhigh

namespace WindowLaw

variable {s t : State}

/- Where many hypotheses stand, an index carries its bound (`t.windows[i]'i.isLt`): the bound is then not searched
for among them. -/

/-- A SHRINK that passed narrows one window within its parent and around its children (R128, R129). -/
theorem narrowWindow (h : WindowLaw s) {ix : SlotIx} {a : ShrinkArgs} (hchecks : shrinkChecks s a = .ok ix) :
    WindowLaw (s.narrowWindow ix a) := by
  obtain ⟨g, w₀, hg, hix, ⟨-, hocc⟩, hgood, hnarrows, hfit, -⟩ := shrinkChecks_ok hchecks
  rw [slot_of_eq _ hg] at hocc
  have hat : (s.narrowWindow ix a).windows[ix].gen = (s.windows[ix]'ix.isLt).gen ∧
      (s.narrowWindow ix a).windows[ix].occ = .live (narrow a w₀) := by
    unfold State.narrowWindow
    dsimp only
    rw [updAt_self]
    exact mapWindow_live (narrow a) hocc
  have hother {i : SlotIx} (hi : i ≠ ix) : (s.narrowWindow ix a).windows[i] = s.windows[i]'i.isLt :=
    updAt_other _ _ _ _ hi
  -- a window of the new table, and the old one it came from
  have hold {i : SlotIx} {w : Window} (hw : (s.narrowWindow ix a).windows[i].occ.window? = some w) :
      ∃ u, (s.windows[i]'i.isLt).occ.window? = some u ∧ (w = u ∨ i = ix ∧ u = w₀ ∧ w = narrow a w₀) := by
    by_cases hi : i = ix
    · subst hi
      rw [hat.2] at hw
      cases hw
      exact ⟨w₀, window_of_live hocc, .inr ⟨rfl, rfl, rfl⟩⟩
    · rw [hother hi] at hw
      exact ⟨w, hw, .inl rfl⟩
  have hnew {i : SlotIx} {u : Window} (hu : (s.windows[i]'i.isLt).occ.window? = some u) :
      ∃ w, (s.narrowWindow ix a).windows[i].occ.window? = some w ∧ (w = u ∨ i = ix ∧ u = w₀ ∧ w = narrow a w₀) := by
    by_cases hi : i = ix
    · subst hi
      rw [window_of_live hocc] at hu
      cases hu
      exact ⟨narrow a w₀, window_of_live hat.2, .inr ⟨rfl, rfl, rfl⟩⟩
    · exact ⟨u, by rw [hother hi]; exact hu, .inl rfl⟩
  have hrev {i c : SlotIx} {w : Window} :
      (s.narrowWindow ix a).windows[i].occ = .revoking w c ↔ (s.windows[i]'i.isLt).occ = .revoking w c := by
    by_cases hi : i = ix
    · subst hi
      rw [hat.2, hocc]
      exact ⟨nofun, nofun⟩
    · rw [hother hi]
  refine ⟨?_, fun i w hi hw => ?_, fun p i v hv hbit => ?_, fun i w hw => ?_, fun p i c v hv hbit => ?_,
    fun i c w hw hne => ?_, fun i c w hw => h.covered i c w (hrev.mp hw), fun e he => ?_, h.roots_nodup,
    h.list_bound⟩
  · rw [hother (Ne.symm hix)]
    exact h.root
  · obtain ⟨u, hu, hwu⟩ := hold hw
    obtain ⟨p, v, hp, hv, hbit, hdepth, hmax, hinside, hoffset⟩ := h.parent i u hi hu
    obtain ⟨v', hv', hvv⟩ := hnew hv
    have hvc : v'.children = v.children ∧ v'.depth = v.depth ∧ v'.offset = v.offset := by
      rcases hvv with rfl | ⟨-, rfl, rfl⟩ <;> exact ⟨rfl, rfl, rfl⟩
    have hwu' : w.parent = u.parent ∧ w.depth = u.depth ∧ w.offset = u.offset ∧ w.reloc = u.reloc ∧ w.inside u := by
      rcases hwu with rfl | ⟨-, rfl, rfl⟩
      · exact ⟨rfl, rfl, rfl, rfl, (Window.inside_iff _ _).mpr
          ⟨le_rfl, le_rfl, ⟨id, id, id⟩, fun _ hn => hn⟩⟩
      · exact ⟨rfl, rfl, rfl, rfl, narrow_inside hnarrows⟩
    refine ⟨p, v', hwu'.1.trans hp, hv', by rw [hvc.1]; exact hbit, by rw [hvc.2.1, hwu'.2.1]; exact hdepth,
      by rw [hwu'.2.1]; exact hmax, ?_, by rw [hwu'.2.2.1, hwu'.2.2.2.1, hvc.2.2]; exact hoffset⟩
    rcases hvv with rfl | ⟨rfl, rfl, rfl⟩
    · exact hwu'.2.2.2.2.trans hinside
    · have hwu : w = u := by
        rcases hwu with hwu | ⟨rfl, rfl, -⟩
        · exact hwu
        · omega
      subst hwu
      exact (Window.inside_iff _ _).mpr (hfit i w hbit hu)
  · obtain ⟨v', hv', hvv⟩ := hold hv
    have hc : v.children = v'.children := by rcases hvv with rfl | ⟨-, rfl, rfl⟩ <;> rfl
    obtain ⟨hi, u, hu, hp⟩ := h.child p i v' hv' (hc ▸ hbit)
    obtain ⟨w, hw, hwu⟩ := hnew hu
    refine ⟨hi, w, hw, ?_⟩
    rcases hwu with rfl | ⟨-, rfl, rfl⟩ <;> exact hp
  · obtain ⟨u, hu, hwu⟩ := hold hw
    rcases hwu with rfl | ⟨-, rfl, rfl⟩
    · exact h.bounds i w hu
    · exact narrow_boundsLaw (h.bounds i u hu) hgood hnarrows
  · obtain ⟨w, hw⟩ := h.revoking_down p i c v (hrev.mp hv) hbit
    exact ⟨w, hrev.mpr hw⟩
  · obtain ⟨p, v, hp, hv⟩ := h.revoking_up i c w (hrev.mp hw) hne
    exact ⟨p, v, hp, hrev.mpr hv⟩
  · obtain ⟨hgen, w, p, v, hw, hp, hv⟩ := h.entries e he
    have hne : e.root.index ≠ ix := by
      intro hi
      rw [slot_of_eq _ hi, hocc] at hw
      cases hw
    refine ⟨by rw [hother hne]; exact hgen, w, p, ?_⟩
    by_cases hpi : p = ix
    · subst hpi
      exact ⟨narrow a w₀, hrev.mpr hw, hp, hat.2⟩
    · exact ⟨v, hrev.mpr hw, hp, by rw [hother hpi]; exact hv⟩

/-! ### DERIVE -/

/-- What an allocation makes of the table: the parent has one more child, and the FREE slot holds the new window. -/
theorem allocate_windows (s : State) (plan : DerivePlan) (a : DeriveArgs) (i : SlotIx) :
    (s.allocate plan a).windows[i] =
      if i = plan.slot then
        ⟨((updAt s.windows plan.parent (WindowSlot.mapWindow fun w =>
          { w with children := w.children ||| slotBit plan.slot }))[plan.slot]).gen,
          .live (derivedWindow plan.parent plan.parentWindow a)⟩
      else if i = plan.parent then
        s.windows[plan.parent].mapWindow fun w => { w with children := w.children ||| slotBit plan.slot }
      else s.windows[i] := by
  unfold State.allocate
  dsimp only
  rw [updAt_get]
  split
  · rfl
  · rw [updAt_get]

/-- A derived window's bounds are in place, upstream and translated (R17, R122, R124). -/
theorem derived_boundsLaw {a : DeriveArgs} {g : Handle} {pw : Window} (hpw : pw.boundsLaw)
    (hsound : DeriveSound s a g pw) (hreloc : goodReloc g.index a.base a.limit a.reloc) :
    (derivedWindow g.index pw a).boundsLaw := by
  obtain ⟨hbase, hlimit, hlt, hle⟩ := hsound.bounds
  obtain ⟨-, -, -, -, hpage, hlow, hhigh⟩ := hpw
  obtain ⟨hwb, hwl⟩ := hsound.within
  refine ⟨hbase, hlimit, hlt, hle, ?_⟩
  by_cases h0 : g.index = 0
  · have hoffset : (derivedWindow g.index pw a).offset = a.reloc.getD 0 := by simp [derivedWindow, h0]
    rw [hoffset]
    change _ ∧ 0 ≤ (a.base : Int) + _ ∧ (a.limit : Int) + _ ≤ _
    cases hr : a.reloc with
    | none =>
      refine ⟨rfl, by simp, ?_⟩
      have : (a.limit : Int) ≤ (1099511627776 : Nat) := by exact_mod_cast hle
      simpa [Config.addressLimit] using this
    | some v =>
      obtain ⟨-, hv, hvl, hvh⟩ := hreloc v hr
      exact ⟨hv, hvl, hvh⟩
  · have hoffset : (derivedWindow g.index pw a).offset = pw.offset := by simp [derivedWindow, h0]
    rw [hoffset]
    change _ ∧ 0 ≤ (a.base : Int) + _ ∧ (a.limit : Int) + _ ≤ _
    have h1 : (pw.base : Int) ≤ a.base := by exact_mod_cast hwb
    have h2 : (a.limit : Int) ≤ pw.limit := by exact_mod_cast hwl
    exact ⟨hpage, by omega, by omega⟩

/-- A derived window is its parent's child (R10 to R12, R16, R17). -/
theorem derived_childOf {a : DeriveArgs} {g : Handle} {pw v : Window} {i : SlotIx} (hsound : DeriveSound s a g pw)
    (hdepth : pw.depth < 5) (hreloc : goodReloc g.index a.base a.limit a.reloc)
    (hv : v = { pw with children := pw.children ||| slotBit i }) :
    (derivedWindow g.index pw a).childOf i g.index v := by
  subst hv
  refine ⟨?_, rfl, Nat.succ_le_of_lt hdepth, (Window.inside_iff _ _).mpr
    ⟨hsound.within.1, hsound.within.2, hsound.perms, hsound.holders⟩, ?_⟩
  · rw [BitVec.getLsbD_or, (getLsbD_slotBit i i).mpr rfl, Bool.or_true]
  · split
    next h0 => simp [derivedWindow, h0]
    next h0 =>
      refine ⟨?_, by simp [derivedWindow, h0]⟩
      change a.reloc = none
      cases hr : a.reloc with
      | none => rfl
      | some v => exact absurd (hreloc v hr).1 h0

/-- An allocation hangs a new leaf below a LIVE window (R125). -/
theorem allocate (h : WindowLaw s) {plan : DerivePlan} {a : DeriveArgs} (hchecks : deriveChecks s a = .ok plan) :
    WindowLaw (s.allocate plan a) := by
  obtain ⟨g, hparent, hsound, hdepth, hreloc, hslot⟩ := deriveChecks_ok hchecks
  obtain ⟨i₀, p₀, pw⟩ := plan
  dsimp only at hparent hsound hdepth hreloc hslot
  subst hparent
  obtain ⟨⟨hi0, hfree⟩, -⟩ := lowestFreeSlot_some.mp hslot
  rw [isFree_iff] at hfree
  have hlive := hsound.live.2
  have hpi : g.index ≠ i₀ := by
    intro he
    rw [slot_of_eq _ he, hfree] at hlive
    cases hlive
  have hwindows := allocate_windows s ⟨i₀, g.index, pw⟩ a
  have hrevs : (s.allocate ⟨i₀, g.index, pw⟩ a).revocations = s.revocations := rfl
  generalize s.allocate ⟨i₀, g.index, pw⟩ a = t at hwindows hrevs ⊢
  have hslotNew : (t.windows[i₀]'i₀.isLt).occ = .live (derivedWindow g.index pw a) := by
    rw [hwindows, if_pos rfl]
  have hparentNew : (t.windows[g.index]'g.index.isLt).gen = (s.windows[g.index]'g.index.isLt).gen ∧
      (t.windows[g.index]'g.index.isLt).occ = .live { pw with children := pw.children ||| slotBit i₀ } := by
    rw [hwindows, if_neg hpi, if_pos rfl]
    exact mapWindow_live _ hlive
  have hother {i : SlotIx} (hi : i ≠ i₀) (hip : i ≠ g.index) : t.windows[i]'i.isLt = s.windows[i]'i.isLt := by
    rw [hwindows, if_neg hi, if_neg hip]
  have hhasWindow {i : SlotIx} {w : Window} (hw : (s.windows[i]'i.isLt).occ.window? = some w) : i ≠ i₀ := by
    rintro rfl
    rw [hfree] at hw
    cases hw
  -- a window of the new table that is not the new one, and the old one it came from
  have hold {i : SlotIx} {w : Window} (hi : i ≠ i₀) (hw : (t.windows[i]'i.isLt).occ.window? = some w) :
      ∃ u, (s.windows[i]'i.isLt).occ.window? = some u ∧
        (w = u ∨ i = g.index ∧ u = pw ∧ w = { pw with children := pw.children ||| slotBit i₀ }) := by
    by_cases hip : i = g.index
    · subst hip
      rw [hparentNew.2] at hw
      cases hw
      exact ⟨pw, window_of_live hlive, .inr ⟨rfl, rfl, rfl⟩⟩
    · rw [hother hi hip] at hw
      exact ⟨w, hw, .inl rfl⟩
  have hnew {i : SlotIx} {u : Window} (hu : (s.windows[i]'i.isLt).occ.window? = some u) :
      ∃ w, (t.windows[i]'i.isLt).occ.window? = some w ∧
        (w = u ∨ i = g.index ∧ u = pw ∧ w = { pw with children := pw.children ||| slotBit i₀ }) := by
    by_cases hip : i = g.index
    · subst hip
      rw [window_of_live hlive] at hu
      cases hu
      exact ⟨_, window_of_live hparentNew.2, .inr ⟨rfl, rfl, rfl⟩⟩
    · exact ⟨u, by rw [hother (hhasWindow hu) hip]; exact hu, .inl rfl⟩
  have hrev {i c : SlotIx} {w : Window} :
      (t.windows[i]'i.isLt).occ = .revoking w c ↔ (s.windows[i]'i.isLt).occ = .revoking w c := by
    by_cases hi : i = i₀
    · subst hi
      rw [hslotNew, hfree]
      exact ⟨nofun, nofun⟩
    · by_cases hip : i = g.index
      · subst hip
        rw [hparentNew.2, hlive]
        exact ⟨nofun, nofun⟩
      · rw [hother hi hip]
  have hbound : pw.boundsLaw := h.bounds g.index pw (window_of_live hlive)
  refine ⟨?_, fun i w hi hw => ?_, fun p i v hv hbit => ?_, fun i w hw => ?_, fun p i c v hv hbit => ?_,
    fun i c w hw hne => ?_, fun i c w hw => hrevs ▸ h.covered i c w (hrev.mp hw), fun e he => ?_, hrevs ▸ h.roots_nodup,
    hrevs ▸ h.list_bound⟩
  · obtain ⟨hgen, c, f, ho⟩ := h.root
    by_cases hip : (0 : SlotIx) = g.index
    · rw [← slot_of_eq _ hip] at hparentNew hlive
      rw [hlive] at ho
      refine ⟨hparentNew.1.trans (by rw [← slot_of_eq s.windows hip]; exact hgen), pw.children ||| slotBit i₀,
        pw.inFlight, hparentNew.2.trans ?_⟩
      cases ho
      rfl
    · rw [hother (Ne.symm hi0) hip]
      exact ⟨hgen, c, f, ho⟩
  · by_cases hii : i = i₀
    · subst hii
      rw [hslotNew] at hw
      cases hw
      exact ⟨g.index, _, rfl, window_of_live hparentNew.2, derived_childOf hsound hdepth hreloc rfl⟩
    · obtain ⟨u, hu, hwu⟩ := hold hii hw
      obtain ⟨p, v, hp, hv, hchild⟩ := h.parent i u hi hu
      obtain ⟨v', hv', hvv⟩ := hnew hv
      refine ⟨p, v', ?_, hv', ?_⟩
      · rcases hwu with rfl | ⟨-, rfl, rfl⟩ <;> exact hp
      · have hwc : w.childOf i p v := by rcases hwu with rfl | ⟨-, rfl, rfl⟩ <;> exact hchild
        rcases hvv with rfl | ⟨-, rfl, rfl⟩
        · exact hwc
        · exact ⟨by rw [BitVec.getLsbD_or, hwc.1, Bool.true_or], hwc.2⟩
  · by_cases hpp : p = i₀
    · subst hpp
      rw [hslotNew] at hv
      cases hv
      rw [show (derivedWindow g.index pw a).children = 0#64 from rfl, BitVec.getLsbD_zero] at hbit
      cases hbit
    · obtain ⟨v', hv', hvv⟩ := hold hpp hv
      have hcase : v'.children.getLsbD i.val = true ∨ p = g.index ∧ i = i₀ := by
        rcases hvv with rfl | ⟨rfl, rfl, rfl⟩
        · exact .inl hbit
        · rw [BitVec.getLsbD_or, Bool.or_eq_true, getLsbD_slotBit] at hbit
          exact hbit.imp id fun he => ⟨rfl, he.symm⟩
      rcases hcase with hbit' | ⟨rfl, rfl⟩
      · obtain ⟨hi, u, hu, hp⟩ := h.child p i v' hv' hbit'
        obtain ⟨w, hw, hwu⟩ := hnew hu
        refine ⟨hi, w, hw, ?_⟩
        rcases hwu with rfl | ⟨-, rfl, rfl⟩ <;> exact hp
      · exact ⟨hi0, _, window_of_live hslotNew, rfl⟩
  · by_cases hii : i = i₀
    · subst hii
      rw [hslotNew] at hw
      cases hw
      exact derived_boundsLaw hbound hsound hreloc
    · obtain ⟨u, hu, hwu⟩ := hold hii hw
      have hb := h.bounds i u hu
      rcases hwu with rfl | ⟨-, rfl, rfl⟩ <;> exact hb
  · obtain ⟨w, hw⟩ := h.revoking_down p i c v (hrev.mp hv) hbit
    exact ⟨w, hrev.mpr hw⟩
  · obtain ⟨p, v, hp, hv⟩ := h.revoking_up i c w (hrev.mp hw) hne
    exact ⟨p, v, hp, hrev.mpr hv⟩
  · obtain ⟨hgen, w, p, v, hw, hp, hv⟩ := h.entries e (hrevs ▸ he)
    have hne : e.root.index ≠ g.index := by
      intro he
      rw [slot_of_eq _ he, hlive] at hw
      cases hw
    refine ⟨by rw [hother (hhasWindow (window_of_revoking hw)) hne]; exact hgen, w, p, ?_⟩
    by_cases hpg : p = g.index
    · subst hpg
      exact ⟨_, hrev.mpr hw, hp, hparentNew.2⟩
    · exact ⟨v, hrev.mpr hw, hp, by rw [hother (hhasWindow (window_of_live hv)) hpg]; exact hv⟩

/-! ### REVOKE -/

theorem markSlot_gen (m : BitVec 64) (root i : SlotIx) (v : WindowSlot) : (markSlot m root i v).gen = v.gen := by
  unfold markSlot
  split
  · split <;> rfl
  · rfl

theorem markSlot_out {m : BitVec 64} {root i : SlotIx} (v : WindowSlot) (h : m.getLsbD i.val = false) :
    markSlot m root i v = v := by
  unfold markSlot
  rw [if_neg (by rw [h]; exact Bool.false_ne_true)]

/-- A window of the set is REVOKING under the new entry (R140). -/
theorem markSlot_in {m : BitVec 64} {root i : SlotIx} {v : WindowSlot} {w : Window} (h : m.getLsbD i.val = true)
    (hw : v.occ.window? = some w) : (markSlot m root i v).occ = .revoking w root := by
  unfold markSlot
  rw [if_pos h]
  rcases live_or_revoking hw with ho | ⟨c, ho⟩ <;> simp only [ho]

/-- An acceptance changes the state of windows, and no window. -/
theorem markSlot_window (m : BitVec 64) (root i : SlotIx) (v : WindowSlot) :
    (markSlot m root i v).occ.window? = v.occ.window? := by
  unfold markSlot
  split
  · cases ho : v.occ <;> simp only [ho] <;> rfl
  · rfl

/-- An acceptance that passed its checks puts the whole subtree under its entry, and absorbs the entries in it
(R140 to R143). -/
theorem acceptRevoke (h : WindowLaw s) {arg : Option Handle} {g : Handle} (k : RespIx)
    (hchecks : revokeChecks s arg = .ok g) : WindowLaw (s.acceptRevoke g k) := by
  obtain ⟨hroot, ⟨w₀, hgen₀, hlive⟩, hroom⟩ := revokeChecks_live hchecks
  set m := subtreeOf s.windows g.index with hm
  have hmark (i : SlotIx) : (s.acceptRevoke g k).windows[i] = markSlot m g.index i (s.windows[i]'i.isLt) := by
    rw [acceptRevoke_windows, Fin.getElem_fin, Vector.getElem_ofFn]
  have hrevs : (s.acceptRevoke g k).revocations = acceptInto s.revocations m g k := by
    rw [acceptRevoke_revocations]
  generalize s.acceptRevoke g k = t at hmark hrevs ⊢
  have hwin (i : SlotIx) : (t.windows[i]'i.isLt).occ.window? = (s.windows[i]'i.isLt).occ.window? := by
    rw [hmark, markSlot_window]
  have hself : m.getLsbD g.index.val = true := subtreeOf_self _ _
  have hchildMem {p i : SlotIx} (hp : m.getLsbD p.val = true) (hc : childIn s.windows p i) : m.getLsbD i.val = true :=
    subtreeOf_child hp hc
  have hin {i : SlotIx} {w : Window} (hi : m.getLsbD i.val = true) (hw : (s.windows[i]'i.isLt).occ.window? = some w) :
      (t.windows[i]'i.isLt).occ = .revoking w g.index := by rw [hmark]; exact markSlot_in hi hw
  have hout {i : SlotIx} (hi : m.getLsbD i.val = false) : t.windows[i]'i.isLt = s.windows[i]'i.isLt := by
    rw [hmark, markSlot_out _ hi]
  have h0 : m.getLsbD (0 : SlotIx).val = false := h.root_not_mem hroot
  -- a REVOKING window of the new table: of the subtree under the new entry, or as it was
  have hrev {i c : SlotIx} {w : Window} (hw : (t.windows[i]'i.isLt).occ = .revoking w c) :
      (s.windows[i]'i.isLt).occ.window? = some w ∧
        (m.getLsbD i.val = true ∧ c = g.index ∨
          m.getLsbD i.val = false ∧ (s.windows[i]'i.isLt).occ = .revoking w c) := by
    have hsome : (s.windows[i]'i.isLt).occ.window? = some w := by rw [← hwin]; exact window_of_revoking hw
    refine ⟨hsome, ?_⟩
    cases hi : m.getLsbD i.val with
    | true =>
      rw [hin hi hsome] at hw
      cases hw
      exact .inl ⟨rfl, rfl⟩
    | false => exact .inr ⟨rfl, by rw [← hout hi]; exact hw⟩
  -- the parent of a window outside the subtree is outside, or the window is its top
  have hparentOut {p i : SlotIx} (hi : m.getLsbD i.val = false) (hc : childIn s.windows p i) :
      m.getLsbD p.val = false :=
    Bool.eq_false_iff.mpr fun hp => by rw [hchildMem hp hc] at hi; cases hi
  have hkept {e : RevEntry} (he : e ∈ t.revocations) :
      (e ∈ s.revocations ∧ m.getLsbD e.root.index.val = false) ∨ e.root = g := by
    rw [hrevs, acceptInto] at he
    rcases List.mem_append.mp he with he | he
    · obtain ⟨he, ha⟩ := List.mem_filter.mp he
      exact .inl ⟨he, by simpa only [Bool.not_eq_true', RevEntry.absorbedBy] using ha⟩
    · rw [List.mem_singleton.mp he]
      exact .inr rfl
  have hstays {e : RevEntry} (he : e ∈ s.revocations) (hout : m.getLsbD e.root.index.val = false) :
      e ∈ t.revocations := by
    rw [hrevs, acceptInto]
    refine List.mem_append_left _ (List.mem_filter.mpr ⟨he, ?_⟩)
    rw [RevEntry.absorbedBy, hout]
    rfl
  have hnewEntry : ∃ e ∈ t.revocations, e.root = g := by
    rw [hrevs, acceptInto]
    exact ⟨_, List.mem_append_right _ (List.mem_singleton_self _), rfl⟩
  refine ⟨?_, fun i w hi hw => ?_, fun p i v hv hbit => ?_, fun i w hw => h.bounds i w (hwin i ▸ hw),
    fun p i c v hv hbit => ?_, fun i c w hw hne => ?_, fun i c w hw => ?_, fun e he => ?_, ?_, ?_⟩
  · rw [hout h0]
    exact h.root
  · obtain ⟨p, v, hp, hv, hchild⟩ := h.parent i w hi (hwin i ▸ hw)
    exact ⟨p, v, hp, (hwin p).trans hv, hchild⟩
  · obtain ⟨hi, w, hw, hp⟩ := h.child p i v (hwin p ▸ hv) hbit
    exact ⟨hi, w, (hwin i).trans hw, hp⟩
  · obtain ⟨hvs, hcase⟩ := hrev hv
    have hc : childIn s.windows p i := (childIn_iff hvs).mpr hbit
    obtain ⟨-, w, hw, hp⟩ := h.child p i v hvs hbit
    rcases hcase with ⟨hpm, rfl⟩ | ⟨hpm, hpo⟩
    · exact ⟨w, hin (hchildMem hpm hc) hw⟩
    · obtain ⟨u, hu⟩ := h.revoking_down p i c v hpo hbit
      have hi : m.getLsbD i.val = false := by
        refine Bool.eq_false_iff.mpr fun hi => ?_
        have hne : i ≠ g.index := by
          rintro rfl
          rw [hlive] at hu
          cases hu
        have := h.parent_mem hi hne hw hp
        rw [hpm] at this
        cases this
      exact ⟨u, by rw [hout hi]; exact hu⟩
  · obtain ⟨hws, hcase⟩ := hrev hw
    rcases hcase with ⟨him, rfl⟩ | ⟨him, hio⟩
    · have hi0 : i ≠ 0 := by
        rintro rfl
        rw [h0] at him
        cases him
      obtain ⟨p, v, hp, hv, -, -⟩ := h.childIn_parent hi0 hws
      exact ⟨p, v, hp, hin (h.parent_mem him hne hws hp) hv⟩
    · obtain ⟨p, v, hp, hv⟩ := h.revoking_up i c w hio hne
      have hi0 : i ≠ 0 := by rintro rfl; exact h.root_not_revoking hio
      obtain ⟨q, u, hq, -, -, hc⟩ := h.childIn_parent hi0 hws
      obtain rfl : p = q := Option.some.inj (hp.symm.trans hq)
      exact ⟨p, v, hp, by rw [hout (hparentOut him hc)]; exact hv⟩
  · obtain ⟨hws, hcase⟩ := hrev hw
    rcases hcase with ⟨him, rfl⟩ | ⟨him, hio⟩
    · obtain ⟨e, he, hr⟩ := hnewEntry
      exact ⟨e, he, congrArg _ hr⟩
    · obtain ⟨e, he, rfl⟩ := h.covered i c w hio
      refine ⟨e, hstays he (Bool.eq_false_iff.mpr fun hcm => ?_), rfl⟩
      have hreach := h.reach_of_covered w.depth le_rfl hio
      have hi := (subtreeOf_iff s.windows g.index i).mpr (((subtreeOf_iff _ _ _).mp hcm).trans hreach)
      rw [← hm, him] at hi
      cases hi
  · rcases hkept he with ⟨he, hout'⟩ | hr
    · obtain ⟨hgen, w, p, v, hw, hp, hv⟩ := h.entries e he
      have hi0 : e.root.index ≠ 0 := fun hi =>
        h.root_not_revoking ((congrArg WindowSlot.occ (slot_of_eq s.windows hi.symm)).trans hw)
      obtain ⟨q, u, hq, -, -, hc⟩ := h.childIn_parent hi0 (window_of_revoking hw)
      obtain rfl : p = q := Option.some.inj (hp.symm.trans hq)
      exact ⟨by rw [hout hout']; exact hgen, w, p, v, by rw [hout hout']; exact hw, hp,
        by rw [hout (hparentOut hout' hc)]; exact hv⟩
    · have hnew : ∀ d : Handle, g = d → (t.windows[d.index]'d.index.isLt).gen = d.gen ∧ ∃ w p v,
          (t.windows[d.index]'d.index.isLt).occ = .revoking w d.index ∧ w.parent = some p ∧
            (t.windows[p]'p.isLt).occ = .live v := by
        rintro _ rfl
        obtain ⟨p, v, hp, hv, hchild, -⟩ := h.parent_live hroot hlive
        refine ⟨by rw [hmark, markSlot_gen]; exact hgen₀, w₀, p, v, hin hself (window_of_live hlive), hp, ?_⟩
        rw [hout (Bool.eq_false_iff.mpr fun hpm => ?_)]
        · exact hv
        · obtain ⟨v', hv', hle⟩ := h.depth_le ((subtreeOf_iff _ _ _).mp hpm) (window_of_live hlive)
          obtain rfl : v = v' := Option.some.inj ((window_of_live hv).symm.trans hv')
          have := hchild.2.1
          omega
      exact hnew e.root hr.symm
  · rw [hrevs, acceptInto, List.map_append, List.map_singleton]
    refine List.nodup_append'.mpr ⟨(List.filter_sublist.map _).nodup h.roots_nodup, List.nodup_singleton _, ?_⟩
    rw [List.disjoint_singleton]
    intro hmem
    obtain ⟨e, he, hr⟩ := List.mem_map.mp hmem
    obtain ⟨-, w, -, -, hw, -⟩ := h.entries e (List.mem_filter.mp he).1
    rw [slot_of_eq _ hr, hlive] at hw
    cases hw
  · rw [hrevs, acceptInto, List.length_append, List.length_singleton]
    exact of_decide_eq_true hroom

/-! ### SUBTREE_FREE -/

/-- `t`'s table is `s`'s without the windows covered by the entry of `R`, whose parent `p` has one child fewer. -/
structure Pruned (s t : State) (R p : SlotIx) (v : Window) : Prop where
  /-- the root of the entry is REVOKING under itself, and a child of `p` -/
  root : ∃ w, s.windows[R].occ = .revoking w R ∧ w.parent = some p
  parent : s.windows[p].occ = .live v
  covered {i : SlotIx} : s.windows[i].coveredBy R = true → t.windows[i].occ = .free
  atParent : t.windows[p].gen = s.windows[p].gen ∧
    t.windows[p].occ = .live { v with children := v.children &&& ~~~slotBit R }
  other {i : SlotIx} : ¬s.windows[i].coveredBy R = true → i ≠ p → t.windows[i] = s.windows[i]

namespace Pruned

variable {R p₀ : SlotIx} {v₀ : Window}

/-- A window left was a window that `R` does not cover, with the same record but for the children of `p₀`. -/
theorem old (hd : Pruned s t R p₀ v₀) {i : SlotIx} {w : Window} (hw : t.windows[i].occ.window? = some w) :
    ¬s.windows[i].coveredBy R = true ∧ ∃ u, s.windows[i].occ.window? = some u ∧
      (w = u ∨ i = p₀ ∧ u = v₀ ∧ w = { v₀ with children := v₀.children &&& ~~~slotBit R }) := by
  have hi : ¬s.windows[i].coveredBy R = true := fun hi => by rw [hd.covered hi] at hw; cases hw
  refine ⟨hi, ?_⟩
  by_cases hip : i = p₀
  · subst hip
    rw [hd.atParent.2] at hw
    cases hw
    exact ⟨v₀, window_of_live hd.parent, .inr ⟨rfl, rfl, rfl⟩⟩
  · rw [hd.other hi hip] at hw
    exact ⟨w, hw, .inl rfl⟩

/-- A window that `R` does not cover is left, with the same record but for the children of `p₀`. -/
theorem left (hd : Pruned s t R p₀ v₀) {i : SlotIx} {u : Window} (hi : ¬s.windows[i].coveredBy R = true)
    (hu : s.windows[i].occ.window? = some u) :
    ∃ w, t.windows[i].occ.window? = some w ∧
      (w = u ∨ i = p₀ ∧ u = v₀ ∧ w = { v₀ with children := v₀.children &&& ~~~slotBit R }) := by
  by_cases hip : i = p₀
  · subst hip
    rw [window_of_live hd.parent] at hu
    cases hu
    exact ⟨_, window_of_live hd.atParent.2, .inr ⟨rfl, rfl, rfl⟩⟩
  · exact ⟨u, by rw [hd.other hi hip]; exact hu, .inl rfl⟩

theorem revoking_iff (hd : Pruned s t R p₀ v₀) {i c : SlotIx} {w : Window} :
    t.windows[i].occ = .revoking w c ↔ c ≠ R ∧ s.windows[i].occ = .revoking w c := by
  constructor
  · intro hw
    have hi := (hd.old (window_of_revoking hw)).1
    have hip : i ≠ p₀ := by
      rintro rfl
      rw [hd.atParent.2] at hw
      cases hw
    rw [hd.other hi hip] at hw
    refine ⟨?_, hw⟩
    rintro rfl
    exact hi (coveredBy_iff.mpr ⟨w, hw⟩)
  · rintro ⟨hc, hw⟩
    have hi : ¬s.windows[i].coveredBy R = true := by
      intro hi
      obtain ⟨u, hu⟩ := coveredBy_iff.mp hi
      rw [hw] at hu
      cases hu
      exact hc rfl
    have hip : i ≠ p₀ := by
      rintro rfl
      rw [hd.parent] at hw
      cases hw
    rw [hd.other hi hip]
    exact hw

theorem live (hd : Pruned s t R p₀ v₀) {i : SlotIx} {v : Window} (hv : s.windows[i].occ = .live v) :
    ∃ v', t.windows[i].occ = .live v' := by
  by_cases hip : i = p₀
  · subst hip
    exact ⟨_, hd.atParent.2⟩
  · exact ⟨v, by rw [hd.other (DefaultLaw.not_coveredBy_of_live hv) hip]; exact hv⟩

/-- Slot 0 stays the root: no entry covers it. -/
theorem rootRecord (hd : Pruned s t R p₀ v₀) (h : WindowLaw s) : t.windows[(0 : SlotIx)].gen = 0#8 ∧
    ∃ children inFlight, t.windows[(0 : SlotIx)].occ =
      .live { rootWindow with children := children, inFlight := inFlight } := by
  obtain ⟨hgen, c, f, ho⟩ := h.root
  by_cases hip : (0 : SlotIx) = p₀
  · subst hip
    rw [hd.parent] at ho
    refine ⟨hd.atParent.1.trans hgen, v₀.children &&& ~~~slotBit R, v₀.inFlight, hd.atParent.2.trans ?_⟩
    cases ho
    rfl
  · rw [hd.other (DefaultLaw.not_coveredBy_of_live ho) hip]
    exact ⟨hgen, c, f, ho⟩

/-- A window left keeps its parent: a covered parent would cover its child (R146). -/
theorem parents (hd : Pruned s t R p₀ v₀) (h : WindowLaw s) (i : SlotIx) (w : Window) (hi : i ≠ 0)
    (hw : t.windows[i].occ.window? = some w) :
    ∃ p v, w.parent = some p ∧ t.windows[p].occ.window? = some v ∧ w.childOf i p v := by
  obtain ⟨hcov, u, hu, hwu⟩ := hd.old hw
  obtain ⟨p, v, hp, hv, hchild⟩ := h.parent i u hi hu
  have hpcov : ¬s.windows[p].coveredBy R = true := by
    intro hpc
    obtain ⟨v', hv'⟩ := coveredBy_iff.mp hpc
    obtain rfl : v = v' := Option.some.inj (hv.symm.trans (window_of_revoking hv'))
    exact hcov (coveredBy_iff.mpr (h.revoking_down p i R v hv' hchild.1))
  have hiR : (slotBit R).getLsbD i.val = false := by
    refine Bool.eq_false_iff.mpr fun hbit => ?_
    rw [getLsbD_slotBit] at hbit
    subst hbit
    exact hcov (coveredBy_iff.mpr (hd.root.imp fun _ hw => hw.1))
  obtain ⟨v', hv', hvv⟩ := hd.left hpcov hv
  have hwp : w.parent = some p := by rcases hwu with rfl | ⟨-, rfl, rfl⟩ <;> exact hp
  have hwc : w.childOf i p v := by rcases hwu with rfl | ⟨-, rfl, rfl⟩ <;> exact hchild
  refine ⟨p, v', hwp, hv', ?_⟩
  rcases hvv with rfl | ⟨-, rfl, rfl⟩
  · exact hwc
  · exact ⟨by rw [BitVec.getLsbD_and, BitVec.getLsbD_not, hwc.1, hiR]; simp, hwc.2⟩

/-- A child of a window left is left: only the root of the entry has a parent that stays (R146). -/
theorem children (hd : Pruned s t R p₀ v₀) (h : WindowLaw s) (p i : SlotIx) (v : Window)
    (hv : t.windows[p].occ.window? = some v) (hbit : v.children.getLsbD i.val = true) :
    i ≠ 0 ∧ ∃ w, t.windows[i].occ.window? = some w ∧ w.parent = some p := by
  obtain ⟨wR, hR, hparentR⟩ := hd.root
  obtain ⟨hpcov, v', hv', hvv⟩ := hd.old hv
  have hcase : v'.children.getLsbD i.val = true ∧ (p = p₀ → i ≠ R) := by
    by_cases hpp : p = p₀
    · subst hpp
      rw [hd.atParent.2] at hv
      cases hv
      have hv₀ : v' = v₀ := Option.some.inj (hv'.symm.trans (window_of_live hd.parent))
      rw [BitVec.getLsbD_and, BitVec.getLsbD_not, Bool.and_eq_true] at hbit
      refine ⟨hv₀ ▸ hbit.1, ?_⟩
      rintro - rfl
      rw [(getLsbD_slotBit i i).mpr rfl] at hbit
      simp at hbit
    · rcases hvv with rfl | ⟨hp, -⟩
      · exact ⟨hbit, fun hp => absurd hp hpp⟩
      · exact absurd hp hpp
  obtain ⟨hi, u, hu, hp⟩ := h.child p i v' hv' hcase.1
  have hcov : ¬s.windows[i].coveredBy R = true := by
    intro hic
    obtain ⟨u', hu'⟩ := coveredBy_iff.mp hic
    obtain rfl : u = u' := Option.some.inj (hu.symm.trans (window_of_revoking hu'))
    by_cases hiR : i = R
    · subst hiR
      rw [hR] at hu'
      cases hu'
      exact hcase.2 (Option.some.inj (hp.symm.trans hparentR)) rfl
    · obtain ⟨q, x, hq, hx⟩ := h.revoking_up i R u hu' hiR
      obtain rfl : p = q := Option.some.inj (hp.symm.trans hq)
      exact hpcov (coveredBy_iff.mpr ⟨x, hx⟩)
  obtain ⟨w, hw, hwu⟩ := hd.left hcov hu
  exact ⟨hi, w, hw, by rcases hwu with rfl | ⟨-, rfl, rfl⟩ <;> exact hp⟩

end Pruned

/-- A list whose entries have different roots, less one of them: no other has that root. -/
theorem root_ne_of_mem_eraseIdx (h : WindowLaw s) {pos : Nat} {e e' : RevEntry} (he : s.revocations[pos]? = some e)
    (he' : e' ∈ s.revocations.eraseIdx pos) : e'.root.index ≠ e.root.index := by
  obtain ⟨hlt, hpos⟩ := List.getElem?_eq_some_iff.mp he
  have hnodup := ((List.getElem_cons_eraseIdx_perm hlt).symm.map fun e => e.root.index).nodup_iff.mp h.roots_nodup
  rw [hpos, List.map_cons, List.nodup_cons] at hnodup
  exact fun hr => hnodup.1 (List.mem_map.mpr ⟨e', he', hr⟩)

/-- The free of a list entry takes its whole subtree out of the tree, and its root out of its parent's children set
(R146). -/
theorem freeSubtree_pruned (h : WindowLaw s) {pos : Nat} {e : RevEntry} (he : e ∈ s.revocations) :
    ∃ p v, Pruned s (s.freeSubtree pos e) e.root.index p v := by
  obtain ⟨-, w, p, v, hR, hparent, hp⟩ := h.entries e he
  have hslot (i : SlotIx) : (s.freeSubtree pos e).windows[i] = freedSlot s.windows e.root.index i := by
    rw [freeSubtree_windows, Fin.getElem_fin, Vector.getElem_ofFn]
  have hbind : s.windows[e.root.index].occ.window?.bind Window.parent = some p := by
    rw [window_of_revoking hR]; exact hparent
  refine ⟨p, v, ⟨w, hR, hparent⟩, hp, fun hi => ?_, ?_, fun hi hip => ?_⟩
  · rw [hslot, freedSlot, if_pos hi]
    rfl
  · rw [hslot, freedSlot, if_neg (DefaultLaw.not_coveredBy_of_live hp), if_pos hbind]
    exact mapWindow_live _ hp
  · rw [hslot, freedSlot, if_neg hi, if_neg (by rw [hbind]; exact fun hc => hip (Option.some.inj hc).symm)]

theorem freeSubtree (h : WindowLaw s) {pos : Nat} {e : RevEntry} (he : s.revocations[pos]? = some e) :
    WindowLaw (s.freeSubtree pos e) := by
  obtain ⟨hlt, hpos⟩ := List.getElem?_eq_some_iff.mp he
  obtain ⟨p₀, v₀, hd⟩ := h.freeSubtree_pruned (pos := pos) (List.mem_of_getElem? he)
  have hrevs : (s.freeSubtree pos e).revocations = s.revocations.eraseIdx pos := by unfold State.freeSubtree; rfl
  refine ⟨hd.rootRecord h, hd.parents h, hd.children h, fun i w hw => ?_, fun p i c v hv hbit => ?_,
    fun i c w hw hne => ?_, fun i c w hw => ?_, fun e' he' => ?_, ?_, ?_⟩
  · obtain ⟨-, u, hu, hwu⟩ := hd.old hw
    have hb := h.bounds i u hu
    rcases hwu with rfl | ⟨-, rfl, rfl⟩ <;> exact hb
  · obtain ⟨hc, hv⟩ := hd.revoking_iff.mp hv
    obtain ⟨w, hw⟩ := h.revoking_down p i c v hv hbit
    exact ⟨w, hd.revoking_iff.mpr ⟨hc, hw⟩⟩
  · obtain ⟨hc, hw⟩ := hd.revoking_iff.mp hw
    obtain ⟨p, v, hp, hv⟩ := h.revoking_up i c w hw hne
    exact ⟨p, v, hp, hd.revoking_iff.mpr ⟨hc, hv⟩⟩
  · obtain ⟨hc, hw⟩ := hd.revoking_iff.mp hw
    obtain ⟨e', he', rfl⟩ := h.covered i c w hw
    rw [hrevs]
    refine ⟨e', ?_, rfl⟩
    rcases List.mem_cons.mp ((List.getElem_cons_eraseIdx_perm hlt).symm.mem_iff.mp he') with rfl | hmem
    · exact absurd (by rw [hpos]) hc
    · exact hmem
  · rw [hrevs] at he'
    obtain ⟨hgen, w, p, v, hw, hp, hv⟩ := h.entries e' (List.mem_of_mem_eraseIdx he')
    have hw' := hd.revoking_iff.mpr ⟨h.root_ne_of_mem_eraseIdx he he', hw⟩
    have hip : e'.root.index ≠ p₀ := by
      intro hi
      rw [slot_of_eq _ hi, hd.parent] at hw
      cases hw
    obtain ⟨v', hv'⟩ := hd.live hv
    exact ⟨by rw [hd.other (hd.old (window_of_revoking hw')).1 hip]; exact hgen, w, p, v', hw', hp, hv'⟩
  · rw [hrevs]
    exact ((List.eraseIdx_sublist _ _).map _).nodup h.roots_nodup
  · rw [hrevs]
    exact (List.eraseIdx_sublist _ _).length_le.trans h.list_bound

/-! ### Reset -/

/-- The root alone, with an empty revocation list (R3). -/
theorem of_reset (hwindows : t.windows = resetWindows) (hrevs : t.revocations = []) : WindowLaw t := by
  have hroot : t.windows[(0 : SlotIx)].gen = 0#8 ∧ t.windows[(0 : SlotIx)].occ = .live rootWindow := by
    rw [hwindows]
    exact ⟨rfl, rfl⟩
  have honly {i : SlotIx} {w : Window} (hw : t.windows[i].occ.window? = some w) : i = 0 ∧ w = rootWindow := by
    rw [hwindows, resetWindows_get] at hw
    split at hw
    next hi => cases hw; exact ⟨hi, rfl⟩
    next => cases hw
  have hnone {i c : SlotIx} {w : Window} (hw : t.windows[i].occ = .revoking w c) : False := by
    obtain ⟨rfl, -⟩ := honly (window_of_revoking hw)
    rw [hroot.2] at hw
    cases hw
  refine ⟨⟨hroot.1, 0#64, 0, hroot.2⟩, fun i w hi hw => absurd (honly hw).1 hi, fun p i v hv hbit => ?_,
    fun i w hw => ?_, fun _ _ _ _ hv _ => (hnone hv).elim, fun _ _ _ hw _ => (hnone hw).elim,
    fun _ _ _ hw => (hnone hw).elim, fun e he => ?_, ?_, ?_⟩
  · obtain ⟨-, rfl⟩ := honly hv
    rw [show rootWindow.children = 0#64 from rfl, BitVec.getLsbD_zero] at hbit
    cases hbit
  · obtain ⟨-, rfl⟩ := honly hw
    unfold Window.boundsLaw
    decide
  · rw [hrevs] at he
    cases he
  · rw [hrevs]
    exact List.nodup_nil
  · rw [hrevs]
    exact Nat.zero_le _

theorem releaseReset (s : State) (bootEn : Bool) (bootId : Initiator) (csLow : Bool) (hr : s.resetn = false) :
    WindowLaw (s.releaseReset bootEn bootId csLow) := by
  unfold State.releaseReset
  rw [if_neg (by simp [hr])]
  exact of_reset rfl rfl

/-! ### Every effect -/

theorem expireStalls (h : WindowLaw s) : WindowLaw s.expireStalls := by
  refine h.congr (.of_eq rfl) ?_
  have hroot (e : RevEntry) : e.giveNotice.root = e.root := by
    unfold RevEntry.giveNotice
    split <;> rfl
  simp [State.roots, State.expireStalls, Function.comp_def, hroot]

theorem tickNow (h : WindowLaw s) : WindowLaw s.tickNow := by
  refine h.congr (.of_eq s.tickNow_windows) ?_
  have hroot (e : RevEntry) : (e.tick s.settings.stallNotice).root = e.root := by
    unfold RevEntry.tick
    split <;> rfl
  simp [State.roots, State.tickNow, Function.comp_def, hroot]

theorem endHold (h : WindowLaw s) (dnReady : Bool) : WindowLaw (s.endHold dnReady) := by
  refine h.of_eq (endHold_windows s dnReady) ?_
  unfold State.endHold
  split
  · split
    · cases dnReady <;> rfl
    · rfl
  · rfl

theorem kept : Kept WindowLaw where
  pending _ _ h := h.of_eq
  counts _ h _ := h.of_eq
  holdEnds _ h := h.endHold
  responsesExpire _ h := h.of_eq
  drainsExpire _ h := h.of_eq
  stallsExpire _ h := h.expireStalls
  ticks _ h := h.tickNow

theorem runEdges (h : WindowLaw s) (own : State → SpiEdge → Bool) (edges : List SpiEdge) :
    WindowLaw (Machine.runEdges own edges s) :=
  h.of_eq (runEdges_linkOnly own edges s).windows (runEdges_linkOnly own edges s).revocations

theorem startReset (h : WindowLaw s) : WindowLaw s.startReset :=
  h.congr (fun i => ⟨subInFlight (heldBy s.tracker i), fun _ => rfl, CountLaw.startReset_windows s i⟩)
    (by rw [State.roots, State.startReset_revocations, State.roots])

theorem timely_revocations (s : State) (u : Tag) (x : Txn) (status : DnStatus) (data : List Beat) :
    (s.timely u x status data).revocations = s.revocations := by
  unfold State.timely
  dsimp only
  split <;> split <;> rfl

theorem refuse_revocations (s : State) (n : Initiator) (r : Request) (u : Tag) (kind : EventKind)
    (window : Option SlotIx) : (s.refuse n r u kind window).revocations = s.revocations := by
  unfold State.refuse
  dsimp only
  split <;> rfl

theorem deliverHead_revocations (s : State) (n : Initiator) (u : Tag) :
    (s.deliverHead n u).revocations = s.revocations := by
  unfold State.deliverHead
  dsimp only
  split <;> rfl

theorem stage_revocations (s : State) (n : Initiator) (k : RespIx) (target : Option Handle) :
    (s.stage n k target).revocations = s.revocations ∧ (s.stage n k target).windows = s.windows := by
  unfold State.stage
  dsimp only
  split <;> exact ⟨rfl, rfl⟩

theorem effects (h : WindowLaw s) : Effects s fun _ t => WindowLaw t where
  idle _ := h
  asserts := of_reset rfl rfl
  releases bootEn bootId csLow hr := releaseReset s bootEn bootId csLow hr
  ticks := (kept.settle h).tickNow
  arrives _ _ _ _ := h.of_eq
  admits n u r _ ix _ _ _ _ := h.of_updAt (ix := ix) (f := addInFlight) rfl fun _ => rfl
  refuses n u r _ kind window _ _ _ _ :=
    h.of_eq (refuse_windows (s.leaveLane n) n r u kind window) (refuse_revocations (s.leaveLane n) n r u kind window)
  issues _ _ _ _ _ _ _ := h.of_eq
  completes u x _ _ status data _ _ :=
    h.of_updAt (timely_windows s u x status data) (fun _ => rfl) (timely_revocations s u x status data)
  late u x after _ _ _ _ := h.of_updAt (late_windows s u x after) fun _ => rfl
  strays _ _ _ := h.of_eq
  responsesExpire := h.of_eq
  delivers _ _ n u _ _ _ _ _ := h.of_eq (deliverHead_windows s n u) (deliverHead_revocations s n u)
  drainsExpire := h.of_eq
  stallsExpire := h.expireStalls
  frees _ _ he _ := h.freeSubtree he
  holdEnds dnReady := h.endHold dnReady
  becomesReady _ := h.of_eq
  commandEdges edges := h.runEdges _ edges
  typeEdges := h.runEdges _ _
  fetchEdges edges := h.runEdges _ edges
  answers _ _ _ _ _ _ := h.of_eq
  derives f rest k _ _ p _ _ hchecks := (h.of_eq (t := s.answered f rest k .done p)).allocate hchecks
  shrinks f rest k _ _ _ _ hchecks := (h.of_eq (t := s.answered f rest k .done [])).narrowWindow hchecks
  accepts f rest k _ _ _ hchecks := (h.of_eq (t := s.deferred f rest k)).acceptRevoke k hchecks
  replaces _ _ _ _ _ _ _ _ _ _ := h.of_eq
  binds _ _ _ _ _ _ _ _ _ _ := h.of_eq
  stages f rest k n target _ _ _ _ _ :=
    h.of_eq (stage_revocations (s.deferred f rest k) n k target).2
      (stage_revocations (s.deferred f rest k) n k target).1
  setsInitiator _ _ _ _ _ _ _ _ := h.of_eq
  startsReset f rest k _ _ _ := by
    have hstart := (h.of_eq (t := s.deferred f rest k)).startReset
    exact { hstart with }
  joinsReset _ _ _ _ _ _ := h.of_eq
  setsControl _ _ _ _ _ _ _ := h.of_eq
  readsEvent _ _ _ _ _ _ _ _ := h.of_eq

end WindowLaw

/-- Settles O10: four effects change the tree, and each leaves its law; the others change counts in flight alone. -/
theorem stepKeepsWindowLaw : Obligations.StepKeepsWindowLaw := by
  unfold Obligations.StepKeepsWindowLaw
  exact fun _ _ h hx => WindowLaw.kept.step (fun _ hs => hs.effects) h hx

end Sys2Proof.Machine

/-! SUPPORT. The event log's law and the time base's: what an event makes of the log, and what each effect makes of
settings and elapsed counts (R153 to R158, R164 to R168). -/

namespace Sys2Proof.Machine

/- One proof after another: a thread for each at once is more than a machine holds. -/
set_option Elab.async false

/-! ### Logs -/

/-- The law of the log, of a log alone. -/
structure EventLog.Sound (l : EventLog) : Prop where
  bound : l.records.length ≤ Config.logDepth
  consecutive : ∀ (i : Nat) (r : EventRecord), l.records[i]? = some r →
    r.seq + BitVec.ofNat 16 (l.records.length - i) = l.nextSeq
  repeats : ∀ r ∈ l.records, 1 ≤ r.repeats ∧ r.repeats ≤ Config.countMax
  drops : ∀ r ∈ l.records, r.drops ≤ Config.countMax

theorem logLaw_iff (s : State) : LogLaw s ↔ s.log.Sound :=
  ⟨fun ⟨hb, hc, hr, hd⟩ => ⟨hb, hc, hr, hd⟩, fun ⟨hb, hc, hr, hd⟩ => ⟨hb, hc, hr, hd⟩⟩

theorem one_le_countMax : 1 ≤ Config.countMax := by decide

namespace EventLog.Sound

/-- Another record at the end, with the same number and counts in range. -/
theorem replaceNewest {seq : BitVec 16} {older : List EventRecord} {r r' : EventRecord}
    (h : EventLog.Sound ⟨older ++ [r], seq⟩) (hseq : r'.seq = r.seq)
    (hrepeats : 1 ≤ r'.repeats ∧ r'.repeats ≤ Config.countMax) (hdrops : r'.drops ≤ Config.countMax) :
    EventLog.Sound ⟨older ++ [r'], seq⟩ := by
  refine ⟨?_, fun i q hq => ?_, fun q hq => ?_, fun q hq => ?_⟩
  · have := h.bound
    simpa using this
  · dsimp only at hq ⊢
    rw [List.length_append, List.length_singleton]
    by_cases hi : i < older.length
    · rw [List.getElem?_append_left hi] at hq
      have := h.consecutive i q (by rw [List.getElem?_append_left hi]; exact hq)
      rwa [List.length_append, List.length_singleton] at this
    · obtain ⟨hlt, hq'⟩ := List.getElem?_eq_some_iff.mp hq
      rw [List.length_append, List.length_singleton] at hlt
      obtain rfl : i = older.length := by omega
      rw [List.getElem?_concat_length] at hq
      cases hq
      have := h.consecutive older.length r List.getElem?_concat_length
      rw [List.length_append, List.length_singleton] at this
      rw [hseq]
      exact this
  · rcases List.mem_append.mp hq with hq | hq
    · exact h.repeats q (List.mem_append_left _ hq)
    · rw [List.mem_singleton.mp hq]; exact hrepeats
  · rcases List.mem_append.mp hq with hq | hq
    · exact h.drops q (List.mem_append_left _ hq)
    · rw [List.mem_singleton.mp hq]; exact hdrops

/-- One more record, under the next number (R155, R158). -/
theorem append {l : EventLog} (h : l.Sound) {r : EventRecord} (hroom : l.records.length < Config.logDepth)
    (hseq : r.seq = l.nextSeq) (hrepeats : 1 ≤ r.repeats ∧ r.repeats ≤ Config.countMax)
    (hdrops : r.drops ≤ Config.countMax) : EventLog.Sound ⟨l.records ++ [r], l.nextSeq + 1#16⟩ := by
  refine ⟨?_, fun i q hq => ?_, fun q hq => ?_, fun q hq => ?_⟩
  · rw [List.length_append, List.length_singleton]
    exact hroom
  · dsimp only at hq ⊢
    rw [List.length_append, List.length_singleton]
    by_cases hi : i < l.records.length
    · rw [List.getElem?_append_left hi] at hq
      rw [← h.consecutive i q hq, show l.records.length + 1 - i = l.records.length - i + 1 by omega, BitVec.ofNat_add,
        BitVec.add_assoc]
    · obtain ⟨hlt, -⟩ := List.getElem?_eq_some_iff.mp hq
      rw [List.length_append, List.length_singleton] at hlt
      obtain rfl : i = l.records.length := by omega
      rw [List.getElem?_concat_length] at hq
      cases hq
      rw [hseq, Nat.add_sub_cancel_left]
  · rcases List.mem_append.mp hq with hq | hq
    · exact h.repeats q hq
    · rw [List.mem_singleton.mp hq]; exact hrepeats
  · rcases List.mem_append.mp hq with hq | hq
    · exact h.drops q hq
    · rw [List.mem_singleton.mp hq]; exact hdrops

/-- The oldest record leaves (R159). -/
theorem removeOldest {seq : BitVec 16} {r : EventRecord} {others : List EventRecord}
    (h : EventLog.Sound ⟨r :: others, seq⟩) : EventLog.Sound ⟨others, seq⟩ := by
  refine ⟨Nat.le_of_succ_le h.bound, fun i q hq => ?_, fun q hq => h.repeats q (List.mem_cons_of_mem _ hq),
    fun q hq => h.drops q (List.mem_cons_of_mem _ hq)⟩
  have := h.consecutive (i + 1) q (by rw [List.getElem?_cons_succ]; exact hq)
  rwa [List.length_cons, Nat.add_sub_add_right] at this

/-- An event coalesces, starts a record, or is lost (R155 to R157). -/
theorem hand {l : EventLog} (h : l.Sound) (tick : TickCount) (e : Event) : (l.hand tick e).Sound := by
  obtain ⟨records, seq⟩ := l
  rcases List.eq_nil_or_concat records with rfl | ⟨older, r, rfl⟩
  · have hroom : 0 < Config.logDepth := by decide
    rw [hand_new (l := ⟨[], seq⟩) tick rfl hroom]
    exact h.append hroom rfl ⟨le_rfl, one_le_countMax⟩ (Nat.zero_le _)
  · rw [List.concat_eq_append] at h ⊢
    have hmem : r ∈ (⟨older ++ [r], seq⟩ : EventLog).records := List.mem_append_right _ (List.mem_singleton_self r)
    obtain ⟨hone, hmax⟩ := h.repeats r hmem
    have hdrops := h.drops r hmem
    cases hm : r.matchesEvent e with
    | true =>
      rw [hand_coalesce tick rfl hm]
      exact h.replaceNewest rfl ⟨le_min one_le_countMax (Nat.le_add_left _ _), min_le_left _ _⟩ hdrops
    | false =>
      have hnot : (⟨older ++ [r], seq⟩ : EventLog).coalesces e = false := by simp [EventLog.coalesces, hm]
      by_cases hroom : (⟨older ++ [r], seq⟩ : EventLog).records.length < Config.logDepth
      · rw [hand_new tick hnot hroom]
        exact h.append hroom rfl ⟨le_rfl, one_le_countMax⟩ (Nat.zero_le _)
      · rw [hand_lost tick rfl hm (by simpa using hroom)]
        exact h.replaceNewest rfl ⟨hone, hmax⟩ (min_le_left _ _)

/-- Any number of events. -/
theorem handAll {l : EventLog} (h : l.Sound) (tick : TickCount) (es : List Event) :
    (es.foldl (fun l e => l.hand tick e) l).Sound := by
  induction es generalizing l with
  | nil => exact h
  | cons e es ih => exact ih (h.hand tick e)

end EventLog.Sound

namespace LogLaw

variable {s t : State}

/-- A step hands the log some events. -/
theorem of_handAll (h : LogLaw s) (tick : TickCount) (es : List Event)
    (hlog : t.log = es.foldl (fun l e => l.hand tick e) s.log := by rfl) : LogLaw t := by
  rw [logLaw_iff] at *
  rw [hlog]
  exact h.handAll tick es

theorem of_eq (h : LogLaw s) (hlog : t.log = s.log := by rfl) : LogLaw t :=
  h.of_handAll 0#32 [] hlog

theorem of_empty (hlog : t.log = ⟨[], 0#16⟩) : LogLaw t := by
  rw [logLaw_iff, hlog]
  refine ⟨Nat.zero_le _, fun i r hr => ?_, fun r hr => ?_, fun r hr => ?_⟩ <;> cases hr

theorem releaseReset (s : State) (bootEn : Bool) (bootId : Initiator) (csLow : Bool) (hr : s.resetn = false) :
    LogLaw (s.releaseReset bootEn bootId csLow) := by
  unfold State.releaseReset
  rw [if_neg (by simp [hr])]
  exact of_empty rfl

theorem endHold (h : LogLaw s) (dnReady : Bool) : LogLaw (s.endHold dnReady) := by
  refine h.of_eq ?_
  unfold State.endHold
  split
  · split
    · cases dnReady <;> rfl
    · rfl
  · rfl

theorem refuse (h : LogLaw s) (n : Initiator) (r : Request) (u : Tag) (kind : EventKind) (window : Option SlotIx) :
    LogLaw (s.refuse n r u kind window) := by
  unfold State.refuse
  dsimp only
  split <;> exact h.of_handAll s.tickCount [_]

theorem timely (h : LogLaw s) (u : Tag) (x : Txn) (status : DnStatus) (data : List Beat) :
    LogLaw (s.timely u x status data) := by
  unfold State.timely
  dsimp only
  split <;> split
  · exact h.of_eq
  · exact h.of_eq
  · exact h.of_handAll s.tickCount [_]
  · exact h.of_handAll s.tickCount [_]

theorem deliverHead (h : LogLaw s) (n : Initiator) (u : Tag) : LogLaw (s.deliverHead n u) := by
  unfold State.deliverHead
  dsimp only
  split <;> exact h.of_eq

theorem stage (h : LogLaw s) (n : Initiator) (k : RespIx) (target : Option Handle) : LogLaw (s.stage n k target) := by
  unfold State.stage
  dsimp only
  split
  · exact h.of_handAll s.tickCount [_]
  · exact h.of_eq

theorem kept : Kept LogLaw where
  pending _ _ h := h.of_eq
  counts _ h _ := h.of_eq
  holdEnds _ h := h.endHold
  responsesExpire s h := h.of_handAll s.tickCount _
  drainsExpire s h := h.of_handAll s.tickCount _
  stallsExpire s h := h.of_handAll s.tickCount _
  ticks s h := h.of_eq s.tickNow_log

theorem runEdges (h : LogLaw s) (own : State → SpiEdge → Bool) (edges : List SpiEdge) :
    LogLaw (Machine.runEdges own edges s) :=
  h.of_eq (runEdges_linkOnly own edges s).log

theorem effects (h : LogLaw s) : Effects s fun _ t => LogLaw t where
  idle _ := h
  asserts := of_empty rfl
  releases bootEn bootId csLow hr := releaseReset s bootEn bootId csLow hr
  ticks := (kept.settle h).of_eq (State.tickNow_log _)
  arrives _ _ _ _ := h.of_eq
  admits _ _ _ _ _ _ _ _ _ := h.of_eq
  refuses n u r _ kind window _ _ _ _ := (h.of_eq (t := s.leaveLane n)).refuse n r u kind window
  issues _ _ _ _ _ _ _ := h.of_eq
  completes u x _ _ status data _ _ := h.timely u x status data
  late _ _ _ _ _ _ _ := h.of_handAll s.tickCount [_]
  strays _ _ _ := h.of_handAll s.tickCount [_]
  responsesExpire := h.of_handAll s.tickCount _
  delivers _ _ n u _ _ _ _ _ := h.deliverHead n u
  drainsExpire := h.of_handAll s.tickCount _
  stallsExpire := h.of_handAll s.tickCount _
  frees pos e _ _ := h.of_eq (s.freeSubtree_log pos.val e)
  holdEnds dnReady := h.endHold dnReady
  becomesReady _ := h.of_eq
  commandEdges edges := h.runEdges _ edges
  typeEdges := h.runEdges _ _
  fetchEdges edges := h.runEdges _ edges
  answers _ _ _ _ _ _ := h.of_eq
  derives _ _ _ _ _ _ _ _ _ := h.of_eq
  shrinks _ _ _ _ _ _ _ _ := h.of_eq
  accepts _ _ _ _ _ _ _ := h.of_handAll s.tickCount _
  replaces _ _ _ _ _ _ _ _ _ _ := h.of_eq
  binds _ _ _ _ _ _ _ _ _ _ := h.of_eq
  stages f rest k n target _ _ _ _ _ := (h.of_eq (t := s.deferred f rest k)).stage n k target
  setsInitiator _ _ _ _ _ _ _ _ := h.of_eq
  startsReset f rest k _ _ _ := h.of_eq (s.deferred f rest k).startReset_log
  joinsReset _ _ _ _ _ _ := h.of_eq
  setsControl _ _ _ _ _ _ _ := h.of_eq
  readsEvent f rest k r others _ _ hlog := by
    rw [logLaw_iff] at *
    have hs : EventLog.Sound ⟨r :: others, s.log.nextSeq⟩ := by rw [← hlog]; exact h
    exact hs.removeOldest

end LogLaw

/-- Settles O11: an event keeps the log's law however it ends, and only READ_EVENT takes a record out. -/
theorem stepKeepsLogLaw : Obligations.StepKeepsLogLaw := by
  unfold Obligations.StepKeepsLogLaw
  exact fun _ _ h hx => LogLaw.kept.step (fun _ hs => hs.effects) h hx

end Sys2Proof.Machine

/-! SUPPORT. The time base's law: what each effect makes of settings, interval and elapsed counts (R164 to R168). -/

namespace Sys2Proof.Machine

/- One proof after another: a thread for each at once is more than a machine holds. -/
set_option Elab.async false

/-! ### Elapsed counts -/

/-- A binding's drain timer within its saturation. -/
def Rebind.InRange (r : Rebind) : Prop :=
  ∀ p, r.pending? = some p → p.elapsed ≤ Config.timerMax

/-- An entry's response timer within its saturation. -/
def Entry.InRange (e : Entry) : Prop :=
  ∀ (x : Txn) (elapsed : Nat) (due : Bool), e = .issued x elapsed due → elapsed ≤ Config.timerMax

/-- A list entry's stall timer within its saturation. -/
def RevEntry.InRange (e : RevEntry) : Prop :=
  ∀ (elapsed : Nat) (due : Bool), e.stall = .running elapsed due → elapsed ≤ Config.timerMax

theorem advance_le (elapsed : Nat) : advance elapsed ≤ Config.timerMax :=
  min_le_left _ _

theorem Rebind.InRange.of_none {r : Rebind} (h : r = .none) : r.InRange := by
  subst h
  exact nofun

theorem Rebind.InRange.tick (r : Rebind) (deadline : Nat) : (r.tick deadline).InRange := by
  intro p hp
  cases r <;> cases hp <;> exact advance_le _

theorem Rebind.InRange.expire {r : Rebind} (h : r.InRange) : r.expire.InRange := by
  unfold Rebind.expire
  split
  next p =>
    have hp := h p rfl
    split
    · intro q hq
      cases hq
      exact hp
    · exact h
  next => exact h

theorem Rebind.InRange.retarget {r : Rebind} (h : r.InRange) (target : Option Handle) (k : RespIx) :
    (r.retarget target k).InRange := by
  intro q hq
  rw [Rebind.pending_retarget] at hq
  obtain ⟨p, hp, rfl⟩ := Option.map_eq_some_iff.mp hq
  exact h p hp

theorem Entry.InRange.tick (e : Entry) (setting : Nat) : (e.tick setting).InRange := by
  rintro x elapsed due he
  cases e <;> cases he
  exact advance_le _

theorem Entry.InRange.expire {e : Entry} (h : e.InRange) : e.expire.InRange := by
  unfold Entry.expire
  split
  · exact nofun
  · exact h

theorem Entry.InRange.portReset {e : Entry} (h : e.InRange) : e.portReset.InRange := by
  intro x elapsed due he
  cases e <;> cases he

theorem Entry.InRange.afterDelivery (e : Entry) : e.afterDelivery.InRange := by
  unfold Entry.afterDelivery
  split <;> exact nofun

theorem RevEntry.InRange.tick {e : RevEntry} (h : e.InRange) (setting : Nat) : (e.tick setting).InRange := by
  unfold RevEntry.tick
  split
  · intro elapsed due he
    cases he
    exact advance_le _
  · exact h

theorem RevEntry.InRange.giveNotice {e : RevEntry} (h : e.InRange) : e.giveNotice.InRange := by
  unfold RevEntry.giveNotice
  split
  · exact nofun
  · exact h

/-! ### The law over effects -/

namespace TimeLaw

variable {s t : State}

theorem drain (h : TimeLaw s) (n : Initiator) : s.contexts[n].rebind.InRange :=
  h.drains n

theorem response (h : TimeLaw s) (u : Tag) : s.tracker[u].InRange :=
  h.responses u

theorem stall (h : TimeLaw s) {e : RevEntry} (he : e ∈ s.revocations) : e.InRange :=
  h.stalls e he

/-- The same settings and interval, with every timer in range. -/
theorem of_timers (h : TimeLaw s) (hdrains : ∀ n : Initiator, t.contexts[n].rebind.InRange)
    (hresponses : ∀ u : Tag, t.tracker[u].InRange) (hstalls : ∀ e ∈ t.revocations, e.InRange)
    (hhold : ∀ c, t.port = .holding c → c ≤ Config.holdTicks)
    (hsettings : t.settings = s.settings := by rfl) (hinterval : t.interval = s.interval := by rfl)
    (hdivider : t.divider = s.divider := by rfl) : TimeLaw t :=
  ⟨hsettings ▸ h.prescale, hsettings ▸ h.ticks16, by rw [hinterval, hdivider]; exact h.interval, hdrains, hresponses,
    hstalls, hhold⟩

/-- Nothing of the time base changed. -/
theorem of_eq (h : TimeLaw s)
    (hcontexts : ∀ n : Initiator, t.contexts[n].rebind = s.contexts[n].rebind := by intro; rfl)
    (htracker : t.tracker = s.tracker := by rfl) (hrevs : t.revocations = s.revocations := by rfl)
    (hport : t.port = s.port := by rfl) (hsettings : t.settings = s.settings := by rfl)
    (hinterval : t.interval = s.interval := by rfl) (hdivider : t.divider = s.divider := by rfl) : TimeLaw t :=
  h.of_timers (fun n => hcontexts n ▸ h.drain n) (fun u => htracker ▸ h.response u)
    (fun _ he => h.stall (hrevs ▸ he)) (hport ▸ h.hold) hsettings hinterval hdivider

/-- One entry of the tracker changed, and no rebind state. -/
theorem of_set (h : TimeLaw s) {u : Tag} {e : Entry} (he : e.InRange)
    (htracker : t.tracker = s.tracker.set u e)
    (hcontexts : ∀ n : Initiator, t.contexts[n].rebind = s.contexts[n].rebind := by intro; rfl)
    (hrevs : t.revocations = s.revocations := by rfl) (hport : t.port = s.port := by rfl)
    (hsettings : t.settings = s.settings := by rfl) (hinterval : t.interval = s.interval := by rfl)
    (hdivider : t.divider = s.divider := by rfl) : TimeLaw t := by
  refine h.of_timers (fun n => hcontexts n ▸ h.drain n) (fun v => ?_) (fun _ he => h.stall (hrevs ▸ he))
    (hport ▸ h.hold) hsettings hinterval hdivider
  rw [htracker, entry_set]
  split
  · exact he
  · exact h.response v

/-- One context changed, and nothing else of the time base. -/
theorem of_context (h : TimeLaw s) {n : Initiator} {f : Context → Context} (hf : (f s.contexts[n]).rebind.InRange)
    (hcontexts : t.contexts = updAt s.contexts n f) (htracker : t.tracker = s.tracker := by rfl)
    (hrevs : t.revocations = s.revocations := by rfl) (hport : t.port = s.port := by rfl)
    (hsettings : t.settings = s.settings := by rfl) (hinterval : t.interval = s.interval := by rfl)
    (hdivider : t.divider = s.divider := by rfl) : TimeLaw t := by
  refine h.of_timers (fun m => ?_) (fun u => htracker ▸ h.response u) (fun _ he => h.stall (hrevs ▸ he))
    (hport ▸ h.hold) hsettings hinterval hdivider
  rw [hcontexts, updAt_get]
  split
  · exact hf
  · exact h.drain m

theorem rebind_updAt (cs : Vector Context 8) (n m : Initiator) (f : Context → Context)
    (hf : ∀ c : Context, (f c).rebind = c.rebind) : (updAt cs n f)[m].rebind = cs[m].rebind := by
  rw [updAt_get]
  split
  next hm => subst hm; exact hf _
  next => rfl

/-! ### Reset -/

/-- The power-on settings, an interval of 100, and no timer running (R164, R169). -/
theorem of_reset (hsettings : t.settings = powerOnSettings) (hinterval : t.interval = 100) (hdivider : t.divider = 0)
    (hcontexts : ∀ n : Initiator, t.contexts[n].rebind = .none) (htracker : ∀ u : Tag, t.tracker[u] = .free)
    (hrevs : t.revocations = []) (hport : t.port = .holding 0) : TimeLaw t := by
  refine ⟨?_, ?_, ?_, fun n => Rebind.InRange.of_none (hcontexts n), fun u x e d he => ?_, fun e he => ?_,
    fun c hc => ?_⟩
  · rw [hsettings]; decide
  · rw [hsettings]; decide
  · rw [hinterval, hdivider]; decide
  · rw [htracker u] at he
    cases he
  · rw [hrevs] at he
    cases he
  · rw [hport] at hc
    cases hc
    exact Nat.zero_le _

theorem resetEntry (u : Tag) : (Vector.replicate 32 Entry.free)[u] = .free := by
  rw [Fin.getElem_fin, Vector.getElem_replicate]

theorem resetRebind (n : Initiator) : ((Vector.replicate 8 resetContext)[n]).rebind = .none := by
  rw [Fin.getElem_fin, Vector.getElem_replicate]
  rfl

theorem bootRebind (bootEn : Bool) (bootId n : Initiator) :
    ((Vector.ofFn (bootContext bootEn bootId))[n] : Context).rebind = .none := by
  rw [Fin.getElem_fin, Vector.getElem_ofFn]
  unfold bootContext
  split <;> rfl

theorem assertReset (s : State) : TimeLaw s.assertReset :=
  of_reset rfl rfl rfl resetRebind resetEntry rfl rfl

theorem releaseReset (s : State) (bootEn : Bool) (bootId : Initiator) (csLow : Bool) (hr : s.resetn = false) :
    TimeLaw (s.releaseReset bootEn bootId csLow) := by
  unfold State.releaseReset
  rw [if_neg (by simp [hr])]
  exact of_reset rfl rfl rfl (bootRebind bootEn bootId) resetEntry rfl rfl

/-! ### Time -/

theorem endHold (h : TimeLaw s) (dnReady : Bool) : TimeLaw (s.endHold dnReady) := by
  unfold State.endHold
  split
  · split
    · cases dnReady
      · exact h.of_timers h.drain h.response (fun _ he => h.stall he) nofun
      · exact h.of_timers h.drain h.response (fun _ he => h.stall he) nofun
    · exact h
  · exact h

theorem expireResponses (h : TimeLaw s) : TimeLaw s.expireResponses := by
  refine h.of_timers h.drain (fun u => ?_) (fun _ he => h.stall he) h.hold
  change (s.tracker.map Entry.expire)[u].InRange
  rw [Fin.getElem_fin, Vector.getElem_map]
  exact (h.response u).expire

theorem expireDrains (h : TimeLaw s) : TimeLaw s.expireDrains := by
  refine h.of_timers (fun n => ?_) h.response (fun _ he => h.stall he) h.hold
  change (s.contexts.map fun c : Context => { c with rebind := c.rebind.expire })[n].rebind.InRange
  rw [Fin.getElem_fin, Vector.getElem_map]
  exact (h.drain n).expire

theorem expireStalls (h : TimeLaw s) : TimeLaw s.expireStalls := by
  refine h.of_timers h.drain h.response (fun e he => ?_) h.hold
  obtain ⟨e', he', rfl⟩ := List.mem_map.mp he
  exact (h.stall he').giveNotice

/-- The tick begins an interval of the prescale setting and saturates every timer (R164 to R167). -/
theorem tickNow (h : TimeLaw s) : TimeLaw s.tickNow := by
  unfold State.tickNow
  refine ⟨h.prescale, h.ticks16, ⟨h.prescale.2, h.prescale.1⟩, fun n => ?_, fun u => ?_, fun e he => ?_, fun c hc => ?_⟩
  · change Rebind.InRange _
    rw [Fin.getElem_fin, Vector.getElem_map]
    exact Rebind.InRange.tick _ _
  · change Entry.InRange _
    rw [Fin.getElem_fin, Vector.getElem_map]
    exact Entry.InRange.tick _ _
  · obtain ⟨e', he', rfl⟩ := List.mem_map.mp he
    exact (h.stall he').tick _
  · dsimp only at hc
    cases hp : s.port <;> rw [hp] at hc <;> cases hc
    exact min_le_left _ _

theorem kept : Kept TimeLaw where
  pending _ _ h := h.of_eq
  counts _ h hlt := ⟨h.prescale, h.ticks16, ⟨h.interval.1, hlt⟩, h.drains, h.responses, h.stalls, h.hold⟩
  holdEnds _ h := h.endHold
  responsesExpire _ h := h.expireResponses
  drainsExpire _ h := h.expireDrains
  stallsExpire _ h := h.expireStalls
  ticks _ h := h.tickNow

/-! ### Every effect -/

theorem startReset (h : TimeLaw s) : TimeLaw s.startReset := by
  refine h.of_timers (fun n => ?_) (fun u => ?_) (fun e he => ?_) (fun c hc => ?_) s.startReset_settings
    s.startReset_interval s.startReset_divider
  · rw [State.startReset_contexts]; exact h.drain n
  · rw [CountLaw.startReset_tracker]; exact (h.response u).portReset
  · rw [State.startReset_revocations] at he; exact h.stall he
  · rw [OwnerLaw.startReset_port] at hc
    cases hc
    exact Nat.zero_le _

theorem refuse (h : TimeLaw s) (n : Initiator) (r : Request) (u : Tag) (kind : EventKind) (window : Option SlotIx) :
    TimeLaw (s.refuse n r u kind window) := by
  have hup (m : Initiator) := rebind_updAt s.contexts n m (fun c => { c with undelivered := c.undelivered + 1 })
    fun _ => rfl
  unfold State.refuse
  dsimp only
  split
  · exact h.of_set (u := u) (e := .refused n r.kind r.len) nofun rfl fun m =>
      (rebind_updAt _ n m (fun c => { c with state := .closed }) fun _ => rfl).trans (hup m)
  · exact h.of_set (u := u) (e := .refused n r.kind r.len) nofun rfl hup

theorem timely (h : TimeLaw s) (u : Tag) (x : Txn) (status : DnStatus) (data : List Beat) :
    TimeLaw (s.timely u x status data) := by
  unfold State.timely
  dsimp only
  split <;> split <;> exact h.of_set (u := u) (e := .done x _) nofun rfl

theorem deliverHead (h : TimeLaw s) (n : Initiator) (u : Tag) : TimeLaw (s.deliverHead n u) := by
  have hup : TimeLaw (s.handUp n u) :=
    h.of_set (u := u) (Entry.InRange.afterDelivery s.tracker[u]) rfl fun m =>
      rebind_updAt s.contexts n m (fun c => { c with undelivered := c.undelivered - 1 }) fun _ => rfl
  unfold State.deliverHead
  dsimp only
  split
  · exact hup.of_context (n := n) (Rebind.InRange.of_none rfl) (commit_contexts (s.handUp n u) n _)
  · exact hup

theorem acceptRevoke (h : TimeLaw s) (g : Handle) (k : RespIx) : TimeLaw (s.acceptRevoke g k) := by
  refine h.of_timers (fun n => ?_) (fun u => ?_) (fun e he => ?_) ?_ (s.acceptRevoke_settings g k)
    (s.acceptRevoke_interval g k) (s.acceptRevoke_divider g k)
  · rw [acceptRevoke_contexts, Fin.getElem_fin, Vector.getElem_map]
    unfold Context.afterRevoke
    dsimp only
    split
    · exact .of_none rfl
    · exact h.drain n
  · rw [State.acceptRevoke_tracker]; exact h.response u
  · rw [acceptRevoke_revocations, acceptInto] at he
    rcases List.mem_append.mp he with he | he
    · exact h.stall (List.mem_of_mem_filter he)
    · rw [List.mem_singleton.mp he]
      intro elapsed due hr
      cases hr
      exact Nat.zero_le _
  · rw [State.acceptRevoke_port]; exact h.hold

theorem freeSubtree (h : TimeLaw s) (pos : Nat) (e : RevEntry) : TimeLaw (s.freeSubtree pos e) := by
  refine h.of_timers (fun n => ?_) (fun u => ?_) (fun e' he => ?_) ?_ (s.freeSubtree_settings pos e)
    (s.freeSubtree_interval pos e) (s.freeSubtree_divider pos e)
  · rw [State.freeSubtree_contexts]; exact h.drain n
  · rw [State.freeSubtree_tracker]; exact h.response u
  · have hrevs : (s.freeSubtree pos e).revocations = s.revocations.eraseIdx pos := by unfold State.freeSubtree; rfl
    rw [hrevs] at he
    exact h.stall (List.mem_of_mem_eraseIdx he)
  · rw [State.freeSubtree_port]; exact h.hold

theorem stage (h : TimeLaw s) (n : Initiator) (k : RespIx) (target : Option Handle) :
    TimeLaw (s.stage n k target) := by
  have hzero (r : Rebind) (hr : r = .fencing ⟨target, k, 0, false⟩ ∨ r = .staged ⟨target, k, 0, false⟩) :
      r.InRange := by
    rcases hr with rfl | rfl <;> intro p hp <;> cases hp <;> exact Nat.zero_le _
  unfold State.stage
  dsimp only
  split
  · exact h.of_context (n := n) (f := fun c => { c with rebind := .fencing ⟨target, k, 0, false⟩ })
      (hzero _ (.inl rfl)) rfl
  · exact h.of_context (n := n) (f := fun c => { c with rebind := .staged ⟨target, k, 0, false⟩ })
      (hzero _ (.inr rfl)) rfl

/-- What SET_CONTROL can write is in range (R168). -/
theorem settingsOf_inRange {p : List Byte} {c : Settings} (hc : settingsOf p = some c) :
    (1 ≤ c.prescale ∧ c.prescale ≤ 1024) ∧ c.drainDeadline ≤ Config.timerMax ∧
      c.responseTimeout ≤ Config.timerMax ∧ c.stallNotice ≤ Config.timerMax := by
  have htwo (i : Nat) : fieldAt p i 2 ≤ Config.timerMax := by
    have h0 := (byteAt p (i + 0)).isLt
    have h1 := (byteAt p (i + 1)).isLt
    simp only [fieldAt, List.range, List.range.loop, List.foldl, Config.timerMax]
    omega
  unfold settingsOf at hc
  dsimp only at hc
  split at hc
  · split at hc
    next hp => cases hc; exact ⟨hp, htwo 2, htwo 4, htwo 6⟩
    next => cases hc
  · cases hc

theorem runEdges (h : TimeLaw s) (own : State → SpiEdge → Bool) (edges : List SpiEdge) :
    TimeLaw (Machine.runEdges own edges s) := by
  have hl := runEdges_linkOnly own edges s
  exact h.of_eq (fun n => by rw [hl.contexts]) hl.tracker hl.revocations hl.port hl.settings hl.interval hl.divider

theorem effects (h : TimeLaw s) : Effects s fun _ t => TimeLaw t where
  idle _ := h
  asserts := assertReset s
  releases bootEn bootId csLow hr := releaseReset s bootEn bootId csLow hr
  ticks := (kept.settle h).tickNow
  arrives _ _ _ _ := h.of_eq
  admits n u r _ ix _ _ _ _ :=
    h.of_set (u := u) (e := .queued ⟨n, ix, r.kind, r.addr, r.len⟩ r.data) nofun rfl fun m =>
      rebind_updAt s.contexts n m (fun c => { c with undelivered := c.undelivered + 1 }) fun _ => rfl
  refuses n u r _ kind window _ _ _ _ := (h.of_eq (t := s.leaveLane n)).refuse n r u kind window
  issues u x _ _ _ _ _ := h.of_set (u := u) (e := .issued x 0 false)
    (fun _ _ _ he => by cases he; exact Nat.zero_le _) rfl
  completes u x _ _ status data _ _ := h.timely u x status data
  late u x after _ _ _ hcase := by
    refine h.of_set (u := u) (e := after) ?_ rfl
    rcases hcase with ⟨-, rfl⟩ | ⟨-, rfl⟩ <;> exact nofun
  strays _ _ _ := h.of_eq
  responsesExpire := h.expireResponses
  delivers _ _ n u _ _ _ _ _ := h.deliverHead n u
  drainsExpire := h.expireDrains
  stallsExpire := h.expireStalls
  frees pos e _ _ := h.freeSubtree pos.val e
  holdEnds dnReady := h.endHold dnReady
  becomesReady _ := h.of_timers h.drain h.response (fun _ he => h.stall he) nofun
  commandEdges edges := h.runEdges _ edges
  typeEdges := h.runEdges _ _
  fetchEdges edges := h.runEdges _ edges
  answers _ _ _ _ _ _ := h.of_eq
  derives _ _ _ _ _ _ _ _ _ := h.of_eq
  shrinks _ _ _ _ _ _ _ _ := h.of_eq
  accepts f rest k g _ _ _ := (h.of_eq (t := s.deferred f rest k)).acceptRevoke g k
  replaces f rest k n target old _ _ _ _ :=
    h.of_context (n := n) ((h.drain n).retarget target k) (replaceBinding_contexts (s.deferred f rest k) n k target old)
  binds _ _ _ n target _ _ _ _ _ := h.of_context (n := n) (f := fun c => { c with current := target }) (h.drain n) rfl
  stages f rest k n target _ _ _ _ _ := (h.of_eq (t := s.deferred f rest k)).stage n k target
  setsInitiator _ _ _ n st po _ _ :=
    h.of_context (n := n) (f := fun c => { c with state := st, policy := po }) (h.drain n) rfl
  startsReset f rest k _ _ _ := by
    have hstart := (h.of_eq (t := s.deferred f rest k)).startReset
    exact { hstart with }
  joinsReset _ _ _ _ _ _ := h.of_eq
  setsControl _ _ _ _ _ _ hc := by
    obtain ⟨hprescale, hticks⟩ := settingsOf_inRange hc
    exact { h with prescale := hprescale, ticks16 := hticks }
  readsEvent _ _ _ _ _ _ _ _ := h.of_eq

end TimeLaw

/-- Settles O12: every timer saturates where it counts, and only a checked SET_CONTROL changes a setting. -/
theorem stepKeepsTimeLaw : Obligations.StepKeepsTimeLaw := by
  unfold Obligations.StepKeepsTimeLaw
  exact fun _ _ h hx => TimeLaw.kept.step (fun _ hs => hs.effects) h hx

end Sys2Proof.Machine

/-! SUPPORT. What each command does to the management link: it orders some slots filled, takes the frame at the head
first, drives the wires, or is one of RESETN's two; and what that leaves of the link's law (R171 to R180, R184). -/

namespace Sys2Proof.Machine

/- One proof after another: a thread for each at once is more than a machine holds. -/
set_option Elab.async false

/-! ### What a command does to the link -/

/-- From `s` to `t` the link only had slots filled. -/
structure Filled (s t : State) : Prop where
  bank : ∃ fs : List Fill, t.bank = fs.foldl SlotBank.fill s.bank
  queue : t.queue = s.queue
  session : t.session = s.session
  resetn : t.resetn = s.resetn

namespace Filled

variable {s t u : State}

theorem by_fills (fs : List Fill) (hbank : t.bank = fs.foldl SlotBank.fill s.bank := by rfl)
    (hqueue : t.queue = s.queue := by rfl) (hsession : t.session = s.session := by rfl)
    (hresetn : t.resetn = s.resetn := by rfl) : Filled s t :=
  ⟨⟨fs, hbank⟩, hqueue, hsession, hresetn⟩

theorem of_eq (hbank : t.bank = s.bank := by rfl) (hqueue : t.queue = s.queue := by rfl)
    (hsession : t.session = s.session := by rfl) (hresetn : t.resetn = s.resetn := by rfl) : Filled s t :=
  by_fills [] hbank hqueue hsession hresetn

theorem trans (h : Filled s t) (h' : Filled t u) : Filled s u := by
  obtain ⟨⟨fs, hfs⟩, hq, hs, hr⟩ := h
  obtain ⟨⟨gs, hgs⟩, hq', hs', hr'⟩ := h'
  exact by_fills (fs ++ gs) (by rw [hgs, hfs, List.foldl_append]) (hq'.trans hq) (hs'.trans hs) (hr'.trans hr)

theorem becomeReady (s : State) : Filled s s.becomeReady :=
  by_fills (s.waitingResets.map fun k => { slot := k, outcome := .done })

theorem endHold (s : State) (dnReady : Bool) : Filled s (s.endHold dnReady) := by
  unfold State.endHold
  split
  · split
    · cases dnReady with
      | true => exact by_fills (s.waitingResets.map fun k => { slot := k, outcome := .done })
      | false => exact of_eq
    · exact of_eq
  · exact of_eq

theorem tickNow (s : State) : Filled s s.tickNow :=
  of_eq s.tickNow_bank s.tickNow_queue s.tickNow_session s.tickNow_resetn

theorem settle (s : State) : Filled s s.settle :=
  (endHold s false).trans of_eq

theorem refuse (s : State) (n : Initiator) (r : Request) (u : Tag) (kind : EventKind) (window : Option SlotIx) :
    Filled s (s.refuse n r u kind window) := by
  unfold State.refuse
  dsimp only
  split <;> exact of_eq

theorem timely (s : State) (u : Tag) (x : Txn) (status : DnStatus) (data : List Beat) :
    Filled s (s.timely u x status data) := by
  unfold State.timely
  dsimp only
  split <;> split <;> exact of_eq

theorem deliverHead (s : State) (n : Initiator) (u : Tag) : Filled s (s.deliverHead n u) := by
  unfold State.deliverHead
  dsimp only
  split
  next p _ => exact by_fills [⟨p.slot, .done, []⟩]
  next => exact of_eq

theorem freeSubtree (s : State) (pos : Nat) (e : RevEntry) : Filled s (s.freeSubtree pos e) :=
  by_fills _ (OwnerLaw.freeSubtree_bank s pos e) (s.freeSubtree_queue pos e) (s.freeSubtree_session pos e)
    (s.freeSubtree_resetn pos e)

theorem answer (s : State) (k : RespIx) (o : CmdOutcome) (p : List Byte) : Filled s (s.answer k o p) :=
  by_fills [⟨k, o, p⟩]

theorem answered (s : State) (f : Frame) (rest : List Frame) (k : RespIx) (o : CmdOutcome) (p : List Byte) :
    Filled (s.deferred f rest k) (s.answered f rest k o p) := by
  rw [← answer_deferred]
  exact answer _ k o p

theorem acceptRevoke_bank (s : State) (g : Handle) (k : RespIx) : (s.acceptRevoke g k).bank =
    ((List.finRange 8).filterMap (discardFill (subtreeOf s.windows g.index) s.contexts)).foldl
      SlotBank.fill s.bank := by
  simp only [State.acceptRevoke, fillAll_bank, State.logAll_bank]

theorem acceptRevoke (s : State) (g : Handle) (k : RespIx) : Filled s (s.acceptRevoke g k) where
  bank := ⟨_, acceptRevoke_bank s g k⟩
  queue := s.acceptRevoke_queue g k
  session := s.acceptRevoke_session g k
  resetn := s.acceptRevoke_resetn g k

theorem stage (s : State) (n : Initiator) (k : RespIx) (target : Option Handle) : Filled s (s.stage n k target) := by
  unfold State.stage
  dsimp only
  split <;> exact of_eq

theorem replaceBinding (s : State) (n : Initiator) (k : RespIx) (target : Option Handle) (old : Pending) :
    Filled s (s.replaceBinding n k target old) :=
  by_fills [⟨old.slot, .replaced, []⟩]

theorem startReset (s : State) : Filled s s.startReset :=
  of_eq s.startReset_bank s.startReset_queue s.startReset_session s.startReset_resetn

end Filled

/-- What a command makes of the link. -/
inductive LinkEffect (s : State) : Instr → State → Prop
  | fills (c : Instr) (t : State) : Filled s t → LinkEffect s c t
  | takes (f : Frame) (rest : List Frame) (k : RespIx) (t : State) : Takes s f rest k →
      Filled (s.deferred f rest k) t → LinkEffect s (tableCommand f.code) t
  | commandEdges (edges : List SpiEdge) :
      LinkEffect s (.commandFrame edges) (runEdges State.ownsCommand edges s)
  | typeEdges : LinkEffect s .fetchSelect (runEdges (fun _ _ => true) s.typeEdges s)
  | fetchEdges (edges : List SpiEdge) : LinkEffect s (.fetchEnd edges) (runEdges State.ownsFetch edges s)
  | asserts : LinkEffect s .resetnAssert s.assertReset
  | releases (bootEn : Bool) (bootId : Initiator) (csLow : Bool) : s.resetn = false →
      LinkEffect s (.resetnRelease bootEn bootId csLow) (s.releaseReset bootEn bootId csLow)

theorem LinkEffect.takesAs {s t : State} {f : Frame} {rest : List Frame} {k : RespIx} {code : CommandCode}
    (ht : Takes s f rest k) (hc : f.code = code) (hf : Filled (s.deferred f rest k) t) :
    LinkEffect s (tableCommand code) t :=
  hc ▸ .takes f rest k t ht hf

theorem linkEffects (s : State) : Effects s (LinkEffect s) where
  idle c := .fills c s .of_eq
  asserts := .asserts
  releases bootEn bootId csLow hr := .releases bootEn bootId csLow hr
  ticks := .fills _ _ ((Filled.settle s).trans (.tickNow _))
  arrives _ _ _ _ := .fills _ _ .of_eq
  admits _ _ _ _ _ _ _ _ _ := .fills _ _ .of_eq
  refuses n u r _ kind window _ _ _ _ :=
    .fills _ _ ((Filled.of_eq (t := s.leaveLane n)).trans (.refuse (s.leaveLane n) n r u kind window))
  issues _ _ _ _ _ _ _ := .fills _ _ .of_eq
  completes u x _ _ status data _ _ := .fills _ _ (.timely s u x status data)
  late _ _ _ _ _ _ _ := .fills _ _ .of_eq
  strays _ _ _ := .fills _ _ .of_eq
  responsesExpire := .fills _ _ .of_eq
  delivers _ _ n u _ _ _ _ _ := .fills _ _ (.deliverHead s n u)
  drainsExpire := .fills _ _ .of_eq
  stallsExpire := .fills _ _ .of_eq
  frees pos e _ _ := .fills _ _ (.freeSubtree s pos.val e)
  holdEnds dnReady := .fills _ _ (.endHold s dnReady)
  becomesReady _ := .fills _ _ (.becomeReady s)
  commandEdges edges := .commandEdges edges
  typeEdges := .typeEdges
  fetchEdges edges := .fetchEdges edges
  answers f rest k o p ht := .takes f rest k _ ht (.answered s f rest k o p)
  derives f rest k _ _ p ht hc _ := .takesAs ht hc ((Filled.answered s f rest k .done p).trans .of_eq)
  shrinks f rest k _ _ ht hc _ := .takesAs ht hc ((Filled.answered s f rest k .done []).trans .of_eq)
  accepts f rest k g ht hc _ := .takesAs ht hc (.acceptRevoke (s.deferred f rest k) g k)
  replaces f rest k n target old ht hc _ _ := .takesAs ht hc (.replaceBinding (s.deferred f rest k) n k target old)
  binds f rest k _ _ ht hc _ _ _ := .takesAs ht hc ((Filled.answered s f rest k .done []).trans .of_eq)
  stages f rest k n target ht hc _ _ _ := .takesAs ht hc (.stage (s.deferred f rest k) n k target)
  setsInitiator f rest k _ _ _ ht hc := .takesAs ht hc ((Filled.answered s f rest k .done []).trans .of_eq)
  startsReset f rest k ht hc _ := .takesAs ht hc ((Filled.startReset (s.deferred f rest k)).trans .of_eq)
  joinsReset _ _ _ ht hc _ := .takesAs ht hc .of_eq
  setsControl f rest k c ht hc _ := .takesAs ht hc ((Filled.answered s f rest k .done c.report).trans .of_eq)
  readsEvent f rest k r _ ht hc _ := .takesAs ht hc ((Filled.answered s f rest k .done r.report).trans .of_eq)

/-! ### Sound slot banks -/

/-- The fill order lists the filled slots, each once (R178). -/
structure SlotBank.Sound (b : SlotBank) : Prop where
  nodup : b.order.Nodup
  filled : ∀ k : RespIx, k ∈ b.order ↔ b.slots[k].isFilled = true

namespace SlotBank.Sound

variable {b : SlotBank}

/-- A slot that is not filled becomes another that is not. -/
theorem set_unfilled (h : b.Sound) {k : RespIx} {r : RespSlot} (hk : b.slots[k].isFilled = false)
    (hr : r.isFilled = false) : SlotBank.Sound ⟨b.slots.set k r, b.order⟩ := by
  refine ⟨h.nodup, fun j => ?_⟩
  dsimp only
  rw [slot_set]
  split
  next hj => rw [h.filled, hj, hk, hr]
  next => exact h.filled j

theorem fill (h : b.Sound) (f : Fill) : (b.fill f).Sound := by
  cases hk : b.slots[f.slot] with
  | reserved seq code =>
    rw [show b.fill f = _ from fill_reserved f.outcome f.payload hk]
    have hnot : f.slot ∉ b.order := by rw [h.filled, hk]; exact Bool.false_ne_true
    refine ⟨List.nodup_append'.mpr ⟨h.nodup, List.nodup_singleton _, List.disjoint_singleton.mpr hnot⟩, fun j => ?_⟩
    dsimp only
    rw [slot_set, List.mem_append, List.mem_singleton]
    by_cases hj : j = f.slot
    · rw [if_pos hj]
      exact iff_of_true (.inr hj) rfl
    · rw [if_neg hj, or_iff_left hj]
      exact h.filled j
  | empty => rw [fill_other (by rw [hk]; exact nofun)]; exact h
  | filled fr => rw [fill_other (by rw [hk]; exact nofun)]; exact h

theorem fills (fs : List Fill) : ∀ {b : SlotBank}, b.Sound → (fs.foldl SlotBank.fill b).Sound := by
  induction fs with
  | nil => exact id
  | cons f fs ih => exact fun h => ih (h.fill f)

theorem release (h : b.Sound) (k : RespIx) (clocked : Nat) : (b.release k clocked).Sound := by
  unfold SlotBank.release
  split
  next f hk =>
    split
    · refine ⟨h.nodup.erase k, fun j => ?_⟩
      dsimp only
      rw [slot_set, h.nodup.mem_erase_iff]
      split
      next hj => exact iff_of_false (fun hm => hm.1 hj) Bool.false_ne_true
      next hj => rw [and_iff_right hj]; exact h.filled j
    · exact h
  next => exact h

end SlotBank.Sound

theorem fill_order_prefix (b : SlotBank) (f : Fill) : b.order <+: (b.fill f).order := by
  unfold SlotBank.fill
  split
  · exact List.prefix_append _ _
  · exact List.prefix_refl _

/-- The head of the fill order stays at the head. -/
theorem fills_head {k : RespIx} (fs : List Fill) :
    ∀ {b : SlotBank}, b.order.head? = some k → (fs.foldl SlotBank.fill b).order.head? = some k := by
  induction fs with
  | nil => exact id
  | cons f fs ih =>
    intro b h
    refine ih ?_
    obtain ⟨more, hmore⟩ := fill_order_prefix b f
    rw [← hmore, List.head?_append, h]
    rfl

/-! ### The law -/

/-- An accepted frame has the payload its code requires, and found room (R173, R177). -/
theorem judgeFrame_accepted {queued : Nat} {bytes : List Byte} {f : Frame}
    (h : judgeFrame queued bytes = .accepted f) :
    queued < Config.queueDepth ∧ f.payload.length = f.code.payloadLength := by
  unfold judgeFrame at h
  dsimp only at h
  split at h
  · cases h
  · split at h
    · cases h
    next hlen =>
      split at h
      · cases h
      · unfold judgeCode at h
        split at h
        · cases h
        next c hc =>
          split at h
          · cases h
          next hpayload =>
            split at h
            · cases h
            next hroom =>
              cases h
              refine ⟨Nat.lt_of_not_le hroom, ?_⟩
              dsimp only
              rw [List.length_take, List.length_drop]
              omega

namespace LinkLaw

variable {s t : State}

theorem bankSound (h : LinkLaw s) : s.bank.Sound :=
  ⟨h.order_nodup, h.order_filled⟩

/-- A sound bank with the selected slot at its head, the same session, and a queue in order. -/
theorem of_bank (h : LinkLaw s) (hbank : t.bank.Sound)
    (hhead : ∀ k, s.bank.order.head? = some k → t.bank.order.head? = some k)
    (hqueue : t.queue <:+ s.queue) (hsession : t.session = s.session) (hresetn : t.resetn = s.resetn) : LinkLaw t where
  order_nodup := hbank.nodup
  order_filled := hbank.filled
  queue_bound := hqueue.length_le.trans h.queue_bound
  queue_payload f hf := h.queue_payload f (hqueue.mem hf)
  session_sound a ha := by rw [hresetn]; exact h.session_sound a (hsession ▸ ha)
  selected_head a k clocked ha hk := hhead k (h.selected_head a k clocked (hsession ▸ ha) hk)

theorem of_filled (h : LinkLaw s) (hf : Filled s t) : LinkLaw t := by
  obtain ⟨⟨fs, hbank⟩, hqueue, hsession, hresetn⟩ := hf
  refine h.of_bank ?_ (fun k hk => ?_) (hqueue ▸ List.suffix_refl _) hsession hresetn
  · rw [hbank]; exact .fills fs h.bankSound
  · rw [hbank]; exact fills_head fs hk

/-- The head frame leaves the queue, and an empty slot is reserved (R179). -/
theorem deferred (h : LinkLaw s) {f : Frame} {rest : List Frame} {k : RespIx} (ht : Takes s f rest k) :
    LinkLaw (s.deferred f rest k) := by
  refine h.of_bank (h.bankSound.set_unfilled (k := k) (by rw [ht.empty]; rfl) rfl) (fun _ => id) ?_ rfl rfl
  rw [ht.head]
  exact List.suffix_cons f rest

/-- The wires changed, to a session that is sound and a FETCH of the head at most. -/
theorem of_session (h : LinkLaw s) (hsound : ∀ a, t.session = some a → a.Sound t.resetn)
    (hselected : ∀ (a : Session) (k : RespIx) (clocked : Nat), t.session = some a → a.kind = .fetch (some k) clocked →
      s.bank.order.head? = some k)
    (hbank : t.bank = s.bank := by rfl) (hqueue : t.queue = s.queue := by rfl) : LinkLaw t where
  order_nodup := hbank ▸ h.order_nodup
  order_filled := hbank ▸ h.order_filled
  queue_bound := hqueue ▸ h.queue_bound
  queue_payload := hqueue ▸ h.queue_payload
  session_sound := hsound
  selected_head a k clocked ha hk := hbank ▸ hselected a k clocked ha hk

/-! ### Edges out of reset -/

theorem csFalls (h : LinkLaw s) (hr : s.resetn = true) : LinkLaw s.csFalls := by
  refine h.of_session (fun a ha => ?_) (fun a k clocked ha hk => ?_)
  · cases ha
    exact ⟨Nat.zero_lt_succ _, fun _ _ => rfl, fun _ => nofun, nofun, fun hlow => absurd (hr.symm.trans hlow) nofun⟩
  · cases ha
    cases hk

/-- A byte gives the session a type, or one byte more (R171, R175). -/
theorem afterByte_ne_untyped (s : State) (b : Byte) {kind : SessionKind} : s.afterByte b kind ≠ .untyped := by
  cases kind with
  | untyped =>
    change (if b = fetchType then _ else _) ≠ _
    split <;> exact fun h => by cases h
  | command bytes => exact nofun
  | fetch selected clocked => exact nofun
  | ignored => exact nofun

theorem afterByte_command {s : State} {b : Byte} {kind : SessionKind} {bytes : List Byte}
    (hkind : ∀ bytes, kind = .command bytes → ∃ b others, bytes = b :: others ∧ b ≠ fetchType)
    (h : s.afterByte b kind = .command bytes) : ∃ b others, bytes = b :: others ∧ b ≠ fetchType := by
  cases kind with
  | untyped =>
    change (if b = fetchType then _ else _) = _ at h
    split at h
    · cases h
    next hb => cases h; exact ⟨b, [], rfl, hb⟩
  | command before =>
    cases h
    obtain ⟨b', others, rfl, hb'⟩ := hkind before rfl
    exact ⟨b', others ++ [b], rfl, hb'⟩
  | fetch selected clocked => cases h
  | ignored => cases h

theorem afterByte_fetch {s : State} {b : Byte} {kind : SessionKind} {k : RespIx} {clocked : Nat}
    (h : s.afterByte b kind = .fetch (some k) clocked) :
    s.bank.order.head? = some k ∨ ∃ before, kind = .fetch (some k) before := by
  cases kind with
  | untyped =>
    change (if b = fetchType then _ else _) = _ at h
    split at h
    · injection h with hk _
      exact .inl hk
    · cases h
  | command before => cases h
  | fetch selected before => cases h; exact .inr ⟨before, rfl⟩
  | ignored => cases h

theorem sclkRises (h : LinkLaw s) (hr : s.resetn = true) {a : Session} (ha : s.session = some a) (mosi : Bool) :
    LinkLaw (s.sclkRises a mosi) := by
  have hsound := h.session_sound a ha
  have hhigh (P : Prop) (hlow : s.resetn = false) : P := absurd (hr.symm.trans hlow) nofun
  unfold State.sclkRises
  dsimp only
  refine h.of_session (fun a' ha' => ?_) (fun a' k clocked ha' hk => ?_)
  · cases ha'
    split
    next hkind =>
      exact ⟨hsound.partial_byte, fun hne => absurd hkind hne, fun hu => absurd (hkind.symm.trans hu) nofun,
        fun bytes hb => absurd (hkind.symm.trans hb) nofun, fun _ => hkind⟩
    next hkind =>
      split
      next hfull =>
        exact ⟨Nat.zero_lt_succ _, fun _ => nofun, fun hu => absurd hu (afterByte_ne_untyped s _),
          fun bytes hb => afterByte_command hsound.typed hb, hhigh _⟩
      next hpart =>
        exact ⟨Nat.lt_of_not_le hpart, fun _ => nofun, fun _ _ => List.append_ne_nil_of_right_ne_nil _ nofun,
          hsound.typed, hhigh _⟩
  · cases ha'
    split at hk
    next hkind => exact absurd (hkind.symm.trans hk) nofun
    next hkind =>
      split at hk
      next =>
        rcases afterByte_fetch hk with hhead | ⟨before, hbefore⟩
        · exact hhead
        · exact h.selected_head a k before ha hbefore
      next => exact h.selected_head a k clocked ha hk

theorem sclkFalls (h : LinkLaw s) (hr : s.resetn = true) {a : Session} (ha : s.session = some a)
    (hsclk : a.sclk = true) : LinkLaw (s.sclkFalls a) := by
  have hsound := h.session_sound a ha
  unfold State.sclkFalls
  split
  next hkind =>
    refine h.of_session (fun a' ha' => ?_) (fun a' k clocked ha' hk => ?_)
    · cases ha'
      exact ⟨hsound.partial_byte, fun hne => absurd hkind hne, fun hu => absurd (hkind.symm.trans hu) nofun,
        fun bytes hb => absurd (hkind.symm.trans hb) nofun, fun _ => hkind⟩
    · cases ha'
      exact absurd (hkind.symm.trans hk) nofun
  next hkind =>
    refine h.of_session (fun a' ha' => ?_) (fun a' k clocked ha' hk => ?_)
    · cases ha'
      exact ⟨hsound.partial_byte, fun _ _ => rfl, fun hu _ => hsound.untyped hu hsclk, hsound.typed,
        fun hlow => absurd (hr.symm.trans hlow) nofun⟩
    · cases ha'
      exact h.selected_head a k clocked ha hk

/-- The session is over, and an accepted frame joins the queue (R173, R177). -/
theorem endCommand (h : LinkLaw s) (hsession : s.session = none) (bytes : List Byte) :
    LinkLaw (s.endCommand bytes) := by
  have hnone (a : Session) (ha : (s.endCommand bytes).session = some a) : False := by
    rw [show (s.endCommand bytes).session = s.session from rfl, hsession] at ha
    cases ha
  have hqueue : (s.endCommand bytes).queue = s.queue ++ (judgeFrame s.queue.length bytes).joins := rfl
  refine ⟨h.order_nodup, h.order_filled, ?_, fun g hg => ?_, fun a ha => (hnone a ha).elim,
    fun a _ _ ha => (hnone a ha).elim⟩
  · rw [hqueue]
    cases hj : judgeFrame s.queue.length bytes with
    | dropped v => rw [Judged.joins, List.append_nil]; exact h.queue_bound
    | accepted f =>
      rw [Judged.joins, List.length_append, List.length_singleton]
      exact (judgeFrame_accepted hj).1
  · rw [hqueue] at hg
    rcases List.mem_append.mp hg with hg | hg
    · exact h.queue_payload g hg
    · cases hj : judgeFrame s.queue.length bytes with
      | dropped v => rw [hj] at hg; cases hg
      | accepted f =>
        rw [hj] at hg
        rw [List.mem_singleton.mp hg]
        exact (judgeFrame_accepted hj).2

theorem csRises (h : LinkLaw s) (a : Session) : LinkLaw (s.csRises a) := by
  have hended : LinkLaw { s with session := none } := h.of_session nofun nofun
  unfold State.csRises
  cases a.kind with
  | untyped => exact hended
  | ignored => exact hended
  | command bytes => exact hended.endCommand rfl bytes
  | fetch selected clocked =>
    cases selected with
    | none => exact hended
    | some k =>
      have hbank := h.bankSound.release k clocked
      exact { hended with
        order_nodup := hbank.nodup
        order_filled := hbank.filled
        selected_head := nofun }

/-! ### Edges in any state -/

/-- A session whose bits serve nothing. -/
theorem ignored_sound {a : Session} (hkind : a.kind = .ignored) (hbits : a.bits = []) (r : Bool) : a.Sound r :=
  ⟨by rw [hbits]; exact Nat.zero_lt_succ _, fun hne => absurd hkind hne, fun hu => absurd (hkind.symm.trans hu) nofun,
    fun bytes hb => absurd (hkind.symm.trans hb) nofun, fun _ => hkind⟩

theorem resetEdge (h : LinkLaw s) (e : SpiEdge) : LinkLaw (s.resetEdge e) := by
  have hto (t : State) (ha : ∀ a, t.session = some a → a.kind = .ignored ∧ a.bits = [])
      (hbank : t.bank = s.bank) (hqueue : t.queue = s.queue) : LinkLaw t :=
    h.of_session (fun a hs => ignored_sound (ha a hs).1 (ha a hs).2 _)
      (fun a k clocked hs hk => absurd ((ha a hs).1.symm.trans hk) nofun) hbank hqueue
  cases e <;> unfold State.resetEdge
  case csFall =>
    dsimp only
    split
    · exact hto _ (fun a ha => by cases ha; exact ⟨rfl, rfl⟩) rfl rfl
    · exact h
  case sclkRise mosi =>
    dsimp only
    split
    · exact h
    · split
      · exact h
      · exact hto _ (fun a ha => by cases ha; exact ⟨rfl, rfl⟩) rfl rfl
  case sclkFall =>
    dsimp only
    split
    · exact h
    · split
      · exact hto _ (fun a ha => by cases ha; exact ⟨rfl, rfl⟩) rfl rfl
      · exact h
  case csRise => exact hto _ nofun rfl rfl

theorem spiEdge (h : LinkLaw s) (e : SpiEdge) : LinkLaw (s.spiEdge e) := by
  cases hr : s.resetn with
  | false =>
    rw [show s.spiEdge e = s.resetEdge e from if_neg (by simp [hr])]
    exact h.resetEdge e
  | true =>
    rcases spiEdge_cases e hr with he | ⟨-, -, he⟩ | ⟨mosi, a, -, ha, -, he⟩ | ⟨a, -, ha, hsclk, he⟩ | ⟨a, -, -, he⟩ <;>
      rw [he]
    · exact h
    · exact h.csFalls hr
    · exact h.sclkRises hr ha mosi
    · exact h.sclkFalls hr ha hsclk
    · exact h.csRises a

theorem runEdges (h : LinkLaw s) (own : State → SpiEdge → Bool) (edges : List SpiEdge) :
    LinkLaw (Machine.runEdges own edges s) :=
  runEdges_keeps (fun _ e hs _ => hs.spiEdge e) edges s h

/-! ### Reset -/

/-- An empty queue, empty slots, and at most an abandoned session (R184). -/
theorem of_reset (hbank : t.bank = ⟨Vector.replicate 8 .empty, []⟩) (hqueue : t.queue = [])
    (hsession : ∀ a, t.session = some a → a.kind = .ignored ∧ a.bits = []) : LinkLaw t where
  order_nodup := by rw [hbank]; exact List.nodup_nil
  order_filled k := by
    rw [hbank]
    dsimp only
    rw [Fin.getElem_fin, Vector.getElem_replicate]
    exact iff_of_false List.not_mem_nil Bool.false_ne_true
  queue_bound := by rw [hqueue]; exact Nat.zero_le _
  queue_payload f hf := by rw [hqueue] at hf; cases hf
  session_sound a ha := ignored_sound (hsession a ha).1 (hsession a ha).2 _
  selected_head a k clocked ha hk := absurd ((hsession a ha).1.symm.trans hk) nofun

theorem assertReset (s : State) : LinkLaw s.assertReset := by
  refine of_reset rfl rfl fun a ha => ?_
  obtain ⟨b, -, rfl⟩ := Option.map_eq_some_iff.mp ha
  exact ⟨rfl, rfl⟩

theorem releaseReset (s : State) (bootEn : Bool) (bootId : Initiator) (csLow : Bool) (hr : s.resetn = false) :
    LinkLaw (s.releaseReset bootEn bootId csLow) := by
  unfold State.releaseReset
  rw [if_neg (by simp [hr])]
  refine of_reset rfl rfl fun a ha => ?_
  obtain ⟨b, -, rfl⟩ := Option.map_eq_some_iff.mp ha
  exact ⟨rfl, rfl⟩

/-! ### Every effect -/

theorem kept : Kept LinkLaw where
  pending _ _ h := h.of_filled .of_eq
  counts _ h _ := h.of_filled .of_eq
  holdEnds s h dnReady := h.of_filled (.endHold s dnReady)
  responsesExpire _ h := h.of_filled .of_eq
  drainsExpire _ h := h.of_filled .of_eq
  stallsExpire _ h := h.of_filled .of_eq
  ticks s h := h.of_filled (.tickNow s)

theorem of_effect (h : LinkLaw s) {c : Instr} (he : LinkEffect s c t) : LinkLaw t := by
  cases he with
  | fills _ _ hf => exact h.of_filled hf
  | takes f rest k _ ht hf => exact (h.deferred ht).of_filled hf
  | commandEdges edges => exact h.runEdges _ edges
  | typeEdges => exact h.runEdges _ _
  | fetchEdges edges => exact h.runEdges _ edges
  | asserts => exact assertReset s
  | releases bootEn bootId csLow hr => exact releaseReset s bootEn bootId csLow hr

end LinkLaw

/-- Settles O5: fillings extend the fill order at its tail, a take reserves an unfilled slot, and each edge leaves a
sound session. -/
theorem stepKeepsLinkLaw : Obligations.StepKeepsLinkLaw := by
  unfold Obligations.StepKeepsLinkLaw
  exact fun _ _ h hx => LinkLaw.kept.step_of_exec (fun _ s _ hs hx => hs.of_effect ((linkEffects s).exec hx)) h hx

end Sys2Proof.Machine

/-! SUPPORT. The life of a response slot under each effect on the link (R176, R178, R179, R183). -/

namespace Sys2Proof.Machine

/- One proof after another: a thread for each at once is more than a machine holds. -/
set_option Elab.async false

/-! ### Fillings -/

/-- The slot is as it was, or was reserved and is filled for the command that reserved it. -/
def RespSlot.Grows (r r' : RespSlot) : Prop :=
  r' = r ∨ ∃ seq code o p, r = .reserved seq code ∧ r' = .filled ⟨seq, code, o, p⟩

theorem RespSlot.Grows.trans {a b c : RespSlot} (h : a.Grows b) (h' : b.Grows c) : a.Grows c := by
  rcases h with rfl | ⟨seq, code, o, p, rfl, rfl⟩
  · exact h'
  · rcases h' with rfl | ⟨_, _, _, _, hb, -⟩
    · exact .inr ⟨seq, code, o, p, rfl, rfl⟩
    · cases hb

theorem RespSlot.Grows.of_empty {r : RespSlot} (h : RespSlot.empty.Grows r) : r = .empty := by
  rcases h with rfl | ⟨_, _, _, _, h, -⟩
  · rfl
  · cases h

theorem RespSlot.Grows.of_filled {r : RespSlot} {f : ResponseFrame} (h : (RespSlot.filled f).Grows r) :
    r = .filled f := by
  rcases h with rfl | ⟨_, _, _, _, h, -⟩
  · rfl
  · cases h

theorem RespSlot.Grows.of_reserved {r : RespSlot} {seq : Byte} {code : CommandCode}
    (h : (RespSlot.reserved seq code).Grows r) :
    r = .reserved seq code ∨ ∃ o p, r = .filled ⟨seq, code, o, p⟩ := by
  rcases h with rfl | ⟨_, _, o, p, h, rfl⟩
  · exact .inl rfl
  · cases h
    exact .inr ⟨o, p, rfl⟩

theorem fill_grows (b : SlotBank) (f : Fill) (k : RespIx) : b.slots[k].Grows (b.fill f).slots[k] := by
  unfold SlotBank.fill
  split
  next seq code hf =>
    dsimp only
    rw [slot_set]
    split
    next hk => exact .inr ⟨seq, code, f.outcome, f.payload, by rw [hk]; exact hf, rfl⟩
    next => exact .inl rfl
  next => exact .inl rfl

theorem fills_grows (fs : List Fill) (k : RespIx) :
    ∀ b : SlotBank, b.slots[k].Grows (fs.foldl SlotBank.fill b).slots[k] := by
  induction fs with
  | nil => exact fun _ => .inl rfl
  | cons f fs ih => exact fun b => (fill_grows b f k).trans (ih _)

theorem Filled.grows {s t : State} (h : Filled s t) (k : RespIx) : s.bank.slots[k].Grows t.bank.slots[k] := by
  obtain ⟨fs, hbank⟩ := h.bank
  rw [hbank]
  exact fills_grows fs k s.bank

/-! ### Edges -/

/-- An emptied slot was filled (R176). -/
theorem release_slot (b : SlotBank) (j k : RespIx) (clocked : Nat) :
    (b.release j clocked).slots[k] = b.slots[k] ∨
      k = j ∧ ∃ f, b.slots[k] = .filled f ∧ f.bytes.length ≤ clocked ∧ (b.release j clocked).slots[k] = .empty := by
  unfold SlotBank.release
  split
  next f hf =>
    split
    next hlen =>
      dsimp only
      rw [slot_set]
      split
      next hk => subst hk; exact .inr ⟨rfl, f, hf, hlen, rfl⟩
      next => exact .inl rfl
    next => exact .inl rfl
  next => exact .inl rfl

/-- The bank changes at CS's rising edge of a FETCH alone. -/
theorem csRises_bank {s : State} {a : Session} (h : ∀ k clocked, a.kind ≠ .fetch (some k) clocked) :
    (s.csRises a).bank = s.bank := by
  unfold State.csRises
  cases hk : a.kind with
  | untyped => rfl
  | command bytes => rfl
  | ignored => rfl
  | fetch selected clocked =>
    cases selected with
    | none => rfl
    | some k => exact absurd hk (h k clocked)

theorem spiEdge_bank {s : State} {e : SpiEdge} (hr : s.resetn = true)
    (h : e = .csRise → ∀ a, s.session = some a → ∀ k clocked, a.kind ≠ .fetch (some k) clocked) :
    (s.spiEdge e).bank = s.bank := by
  rcases spiEdge_cases e hr with he | ⟨-, -, he⟩ | ⟨mosi, a, -, ha, -, he⟩ | ⟨a, -, ha, -, he⟩ | ⟨a, hrise, ha, he⟩ <;>
    rw [he]
  · rfl
  · rfl
  · unfold State.sclkFalls
    split <;> rfl
  · exact csRises_bank (h hrise a ha)

/-- Edges that end no FETCH leave the bank. -/
theorem runEdges_bank {own : State → SpiEdge → Bool}
    (h : ∀ (s : State) (e : SpiEdge), own s e = true → e = .csRise →
      ∀ a, s.session = some a → ∀ k clocked, a.kind ≠ .fetch (some k) clocked)
    (edges : List SpiEdge) {s : State} (hr : s.resetn = true) : (runEdges own edges s).bank = s.bank := by
  refine (runEdges_keeps (P := fun t => t.resetn = true ∧ t.bank = s.bank) (fun t e ht hown => ⟨?_, ?_⟩) edges s
    ⟨hr, rfl⟩).2
  · rw [(spiEdge_linkOnly t e).resetn]; exact ht.1
  · rw [spiEdge_bank ht.1 (h t e hown)]; exact ht.2

theorem commandEdges_bank (edges : List SpiEdge) {s : State} (hr : s.resetn = true) :
    (runEdges State.ownsCommand edges s).bank = s.bank := by
  refine runEdges_bank (fun t e hown _ a ha k clocked hk => ?_) edges hr
  rw [State.ownsCommand, ha] at hown
  simp only [hk, Bool.false_eq_true] at hown

/-- Every edge of the list is driven: no edge of it raises CS. -/
theorem edges_bank {edges : List SpiEdge} (h : SpiEdge.csRise ∉ edges) :
    ∀ {s : State}, s.resetn = true → (runEdges (fun _ _ => true) edges s).bank = s.bank := by
  induction edges with
  | nil => exact fun _ => rfl
  | cons e rest ih =>
    intro s hr
    rw [List.mem_cons, not_or] at h
    rw [runEdges_cons rest rfl, ih h.2 (by rw [(spiEdge_linkOnly s e).resetn]; exact hr),
      spiEdge_bank hr fun he => absurd he.symm h.1]

theorem csRise_not_mem_bitEdges (bits : List Bool) : SpiEdge.csRise ∉ bits.flatMap bitEdges := by
  simp [bitEdges]

theorem csRise_not_mem_typeEdges (s : State) : SpiEdge.csRise ∉ s.typeEdges := by
  have hdrop (bits : List Bool) : SpiEdge.csRise ∉ (bits.flatMap bitEdges).dropLast :=
    fun h => csRise_not_mem_bitEdges bits (List.mem_of_mem_dropLast h)
  unfold State.typeEdges
  split
  · rw [List.mem_cons, not_or]
    exact ⟨nofun, hdrop _⟩
  next a _ =>
    dsimp only
    cases a.kind <;> dsimp only
    case command => exact List.not_mem_nil
    case fetch => exact List.not_mem_nil
    all_goals
      split
      · split
        · rw [List.mem_cons, not_or]
          exact ⟨nofun, hdrop _⟩
        · exact hdrop _
      · exact List.not_mem_nil

/-- Edges that are not the command's own do nothing. -/
theorem runEdges_not_own {own : State → SpiEdge → Bool} {s : State} (edges : List SpiEdge)
    (h : ∀ e, own s e = false) : runEdges own edges s = s := by
  cases edges with
  | nil => rfl
  | cons e rest => unfold runEdges; rw [if_neg (by rw [h e]; exact Bool.false_ne_true)]

theorem ownsFetch_none {s : State} (h : s.session = none) (e : SpiEdge) : s.ownsFetch e = false := by
  rw [State.ownsFetch, h]

/-- A session stays a FETCH of the same slot until it ends, with eight bits clocked for every byte (R175). -/
theorem sclkRises_fetch {s : State} {a : Session} {selected : Option RespIx} {clocked : Nat} (mosi : Bool)
    (hk : a.kind = .fetch selected clocked) :
    ∃ b clocked', (s.sclkRises a mosi).session = some b ∧ b.kind = .fetch selected clocked' ∧
      8 * clocked' + b.bits.length ≤ 8 * clocked + a.bits.length + 1 := by
  unfold State.sclkRises
  simp only [hk]
  by_cases hfull : 8 ≤ (a.bits ++ [mosi]).length
  · rw [if_pos hfull]
    refine ⟨_, clocked + 1, rfl, rfl, ?_⟩
    rw [List.length_append, List.length_singleton] at hfull
    simp only [List.length_nil]
    omega
  · rw [if_neg hfull]
    refine ⟨_, clocked, rfl, rfl, ?_⟩
    simp only [List.length_append, List.length_singleton]
    omega

theorem sclkFalls_fetch {s : State} {a : Session} {selected : Option RespIx} {clocked : Nat}
    (hk : a.kind = .fetch selected clocked) :
    ∃ b, (s.sclkFalls a).session = some b ∧ b.kind = .fetch selected clocked ∧ b.bits = a.bits := by
  unfold State.sclkFalls
  simp only [hk]
  exact ⟨_, rfl, rfl, rfl⟩

/-- From `s` to `t` the slot `k` is as it was, or was emptied, its frame clocked out in `bits` bits of a FETCH that
selected it. -/
def SlotFetched (s t : State) (k : RespIx) (selected : Option RespIx) (bits : Nat) : Prop :=
  t.bank.slots[k] = s.bank.slots[k] ∨ selected = some k ∧ t.bank.slots[k] = .empty ∧
    ∃ f, s.bank.slots[k] = .filled f ∧ 8 * f.bytes.length ≤ bits

theorem SlotFetched.mono {s s' t : State} {k : RespIx} {selected : Option RespIx} {bits more : Nat}
    (h : SlotFetched s' t k selected bits) (hbank : s'.bank = s.bank) (hle : bits ≤ more) :
    SlotFetched s t k selected more := by
  unfold SlotFetched at *
  rw [hbank] at h
  refine h.imp id ?_
  rintro ⟨hsel, hempty, f, hf, hlen⟩
  exact ⟨hsel, hempty, f, hf, hlen.trans hle⟩

/-- What the edges of a FETCH do to a slot: nothing, or they empty the selected one, its frame clocked out whole
(R176). -/
theorem fetchEdges_slot (k : RespIx) (selected : Option RespIx) (edges : List SpiEdge) :
    ∀ (s : State) (a : Session) (clocked : Nat), s.resetn = true → s.session = some a →
      a.kind = .fetch selected clocked →
      SlotFetched s (runEdges State.ownsFetch edges s) k selected
        (8 * clocked + a.bits.length + risingEdges edges) := by
  induction edges with
  | nil => exact fun _ _ _ _ _ _ => .inl rfl
  | cons e rest ih =>
    intro s a clocked hr ha hk
    have hown : s.ownsFetch e = true := by rw [State.ownsFetch, ha]; simp only [hk]
    have hr' : (s.spiEdge e).resetn = true := by rw [(spiEdge_linkOnly s e).resetn]; exact hr
    have hrising : risingEdges rest ≤ risingEdges (e :: rest) := by
      unfold risingEdges
      rw [List.countP_cons]
      exact Nat.le_add_right _ _
    -- the session goes on, with the bank as it was
    have hgoes (b : Session) (clocked' : Nat) (hb : (s.spiEdge e).session = some b)
        (hkb : b.kind = .fetch selected clocked') (hbank : (s.spiEdge e).bank = s.bank)
        (hbits : 8 * clocked' + b.bits.length + risingEdges rest ≤
          8 * clocked + a.bits.length + risingEdges (e :: rest)) :
        SlotFetched s (runEdges State.ownsFetch rest (s.spiEdge e)) k selected
          (8 * clocked + a.bits.length + risingEdges (e :: rest)) :=
      (ih _ b clocked' hr' hb hkb).mono hbank hbits
    rw [runEdges_cons rest hown]
    rcases spiEdge_cases e hr with he | ⟨-, hnone, -⟩ | ⟨mosi, a', rfl, ha', -, he⟩ | ⟨a', rfl, ha', -, he⟩ |
      ⟨a', rfl, ha', he⟩
    · exact hgoes a clocked (by rw [he]; exact ha) hk (by rw [he]) (by omega)
    · exact absurd (hnone.symm.trans ha) nofun
    · obtain rfl : a = a' := Option.some.inj (ha.symm.trans ha')
      obtain ⟨b, clocked', hb, hkb, hbits⟩ := sclkRises_fetch (s := s) mosi hk
      refine hgoes b clocked' (he ▸ hb) hkb (by rw [he]; rfl) ?_
      have hone : risingEdges (.sclkRise mosi :: rest) = risingEdges rest + 1 := by
        unfold risingEdges
        rw [List.countP_cons, if_pos rfl]
      omega
    · obtain rfl : a = a' := Option.some.inj (ha.symm.trans ha')
      obtain ⟨b, hb, hkb, hbits⟩ := sclkFalls_fetch (s := s) hk
      refine hgoes b clocked (he ▸ hb) hkb (spiEdge_bank hr fun hrise => by cases hrise) ?_
      rw [hbits]
      omega
    · obtain rfl : a = a' := Option.some.inj (ha.symm.trans ha')
      have hended : (s.csRises a).session = none := by
        unfold State.csRises
        cases selected <;> simp only [hk]
      rw [he, runEdges_not_own rest (ownsFetch_none hended)]
      cases selected with
      | none => exact .inl (by rw [csRises_bank (by rw [hk]; exact nofun)])
      | some j =>
        have hbank : (s.csRises a).bank = s.bank.release j clocked := by
          unfold State.csRises
          simp only [hk]
        unfold SlotFetched
        rw [hbank]
        rcases release_slot s.bank j k clocked with hsame | ⟨rfl, f, hf, hlen, hempty⟩
        · exact .inl hsame
        · exact .inr ⟨rfl, hempty, f, hf, by omega⟩

/-- An ignored session stays one to its end, and changes no slot (R184). -/
theorem spiEdge_ignored {s : State} {a : Session} (e : SpiEdge) (hr : s.resetn = true) (ha : s.session = some a)
    (hi : a.kind = .ignored) :
    (s.spiEdge e).bank = s.bank ∧ ∀ b, (s.spiEdge e).session = some b → b.kind = .ignored := by
  refine ⟨spiEdge_bank hr fun _ b hb k clocked hk => ?_, fun b hb => ?_⟩
  · obtain rfl : a = b := Option.some.inj (ha.symm.trans hb)
    exact absurd (hi.symm.trans hk) nofun
  · rcases spiEdge_cases e hr with he | ⟨-, hnone, -⟩ | ⟨mosi, a', -, ha', -, he⟩ | ⟨a', -, ha', -, he⟩ |
      ⟨a', -, ha', he⟩
    · obtain rfl : a = b := Option.some.inj (ha.symm.trans (he ▸ hb))
      exact hi
    · exact absurd (hnone.symm.trans ha) nofun
    · obtain rfl : a = a' := Option.some.inj (ha.symm.trans ha')
      rw [he, State.sclkRises] at hb
      simp only [hi] at hb
      cases hb
      rfl
    · obtain rfl : a = a' := Option.some.inj (ha.symm.trans ha')
      rw [he, State.sclkFalls] at hb
      simp only [hi] at hb
      cases hb
      rfl
    · obtain rfl : a = a' := Option.some.inj (ha.symm.trans ha')
      rw [he, State.csRises] at hb
      simp only [hi] at hb
      cases hb

/-- FETCH_END outside a FETCH leaves the bank. -/
theorem fetchEdges_bank {s : State} (edges : List SpiEdge) (hr : s.resetn = true)
    (h : ∀ a, s.session = some a → ∀ selected clocked, a.kind ≠ .fetch selected clocked) :
    (runEdges State.ownsFetch edges s).bank = s.bank := by
  cases hs : s.session with
  | none => rw [runEdges_not_own edges (ownsFetch_none hs)]
  | some a =>
    by_cases hi : a.kind = .ignored
    · refine (runEdges_keeps
        (P := fun t => t.resetn = true ∧ t.bank = s.bank ∧ ∀ a, t.session = some a → a.kind = .ignored)
        (fun t e ht hown => ?_) edges s ⟨hr, rfl, fun b hb => ?_⟩).2.1
      · obtain ⟨hr, hbank, hignored⟩ := ht
        obtain ⟨b, hb⟩ : ∃ b, t.session = some b :=
          Option.ne_none_iff_exists'.mp fun hnone => by rw [ownsFetch_none hnone] at hown; cases hown
        obtain ⟨hsame, hstill⟩ := spiEdge_ignored e hr hb (hignored b hb)
        exact ⟨by rw [(spiEdge_linkOnly t e).resetn]; exact hr, hsame.trans hbank, hstill⟩
      · rw [hs] at hb
        cases hb
        exact hi
    · rw [runEdges_not_own edges fun e => ?_]
      rw [State.ownsFetch, hs]
      dsimp only
      split
      next selected clocked hk => exact absurd hk (h a hs selected clocked)
      next hk => exact absurd hk hi
      next => rfl

/-! ### Every command -/

/-- What a command can make of a slot. -/
theorem slot_of_effect {c : Instr} {s t : State} (k : RespIx) (hr : s.resetn = true) (hrt : t.resetn = true)
    (he : LinkEffect s c t) :
    s.bank.slots[k].Grows t.bank.slots[k] ∨
    (s.bank.slots[k] = .empty ∧ ∃ f rest, s.queue = f :: rest ∧ t.queue = rest ∧
      (RespSlot.reserved f.seq f.code).Grows t.bank.slots[k]) ∨
    ∃ f, s.bank.slots[k] = .filled f ∧ t.bank.slots[k] = .empty ∧ ∃ edges a clocked, c = .fetchEnd edges ∧
      s.session = some a ∧ a.kind = .fetch (some k) clocked ∧
      f.bytes.length ≤ clocked + (a.bits.length + risingEdges edges) / 8 := by
  cases he with
  | fills _ _ hf => exact .inl (hf.grows k)
  | takes f rest j _ ht hf =>
    have hgrows := hf.grows k
    have hslot : (s.deferred f rest j).bank.slots[k] = if k = j then .reserved f.seq f.code else s.bank.slots[k] :=
      slot_set s.bank.slots j k _
    rw [hslot] at hgrows
    by_cases hk : k = j
    · subst hk
      rw [if_pos rfl] at hgrows
      exact .inr (.inl ⟨ht.empty, f, rest, ht.head, hf.queue, hgrows⟩)
    · rw [if_neg hk] at hgrows
      exact .inl hgrows
  | commandEdges edges => exact .inl (.inl (by rw [commandEdges_bank edges hr]))
  | typeEdges => exact .inl (.inl (by rw [edges_bank (csRise_not_mem_typeEdges s) hr]))
  | fetchEdges edges =>
    by_cases hfetch : ∃ a selected clocked, s.session = some a ∧ a.kind = .fetch selected clocked
    · obtain ⟨a, selected, clocked, ha, hk⟩ := hfetch
      rcases fetchEdges_slot k selected edges s a clocked hr ha hk with hsame | ⟨rfl, hempty, f, hf, hlen⟩
      · exact .inl (.inl hsame)
      · exact .inr (.inr ⟨f, hf, hempty, edges, a, clocked, rfl, ha, hk, by omega⟩)
    · rw [fetchEdges_bank edges hr fun a ha selected clocked hk => hfetch ⟨a, selected, clocked, ha, hk⟩]
      exact .inl (.inl rfl)
  | asserts => exact absurd hrt nofun
  | releases bootEn bootId csLow hlow => exact absurd (hr.symm.trans hlow) nofun

/-- Tests that exclude each other hold of no more places than there are. -/
theorem countP_add_countP_le {α : Type} {p q : α → Bool} (h : ∀ a, p a = true → q a = false) (l : List α) :
    l.countP p + l.countP q ≤ l.length := by
  induction l with
  | nil => exact le_rfl
  | cons a l ih =>
    rw [List.countP_cons, List.countP_cons, List.length_cons]
    cases hp : p a with
    | true =>
      rw [h a hp, if_pos rfl, if_neg Bool.false_ne_true]
      omega
    | false =>
      rw [if_neg Bool.false_ne_true]
      split <;> omega

theorem filled_add_reserved_le (b : SlotBank) : b.filledCount + b.reservedCount ≤ 8 := by
  refine (countP_add_countP_le (fun k hk => ?_) (List.finRange 8)).trans (List.length_finRange).le
  cases hs : b.slots[k] with
  | empty => rfl
  | reserved seq code => rw [hs] at hk; cases hk
  | filled f => rfl

/-- The controller needs an empty slot and a frame of its command at the head (R179). -/
theorem exec_table_idle {s : State} {code : CommandCode}
    (h : (∀ k : RespIx, s.bank.slots[k] ≠ .empty) ∨ ∀ f rest, s.queue = f :: rest → f.code ≠ code) :
    exec (tableCommand code) s = .next s := by
  rw [exec_tableCommand]
  rcases runCommand_cases code (tableBody code) s with ⟨f, rest, k, ht, hc, -⟩ | he
  · rcases h with hfull | hhead
    · exact absurd ht.empty (hfull k)
    · exact absurd hc (hhead f rest ht.head)
  · exact he

/-- Settles O40: a slot is filled where it was reserved, reserved where it was empty, and emptied where a FETCH clocked
its frame out whole. -/
theorem responseSlotLifeCycle : Obligations.ResponseSlotLifeCycle := by
  unfold Obligations.ResponseSlotLifeCycle
  refine ⟨fun c s t k hst => ?_, fun s code h => exec_table_idle h⟩
  obtain ⟨hr, hx, hrt⟩ := hst
  refine ⟨fun hempty => ?_, fun seq code hres => ?_, fun f hfilled => ?_, filled_add_reserved_le t.bank⟩ <;>
    rcases slot_of_effect k hr hrt ((linkEffects s).exec hx) with
      hg | ⟨he, g, rest, hq, hqt, hg⟩ | ⟨g, hg, he, edges, a, clocked, hc, ha, hk, hlen⟩
  · rw [hempty] at hg
    exact .inl hg.of_empty
  · refine .inr ⟨g, rest, hq, hqt, ?_⟩
    exact hg.of_reserved
  · exact absurd (hempty.symm.trans hg) nofun
  · rw [hres] at hg
    exact hg.of_reserved
  · exact absurd (hres.symm.trans he) nofun
  · exact absurd (hres.symm.trans hg) nofun
  · rw [hfilled] at hg
    exact .inl hg.of_filled
  · exact absurd (hfilled.symm.trans he) nofun
  · rw [hfilled] at hg
    cases hg
    exact .inr ⟨he, edges, a, clocked, hc, ha, hk, hlen⟩

end Sys2Proof.Machine

/-! SUPPORT. Statements over all commands: what each effect leaves of delivery lists, of deliverable entries and of a
window's authority (R2, R7, R77, R86, R88, R92), and that each command has an effect. -/

namespace Sys2Proof.Machine

/- One proof after another: a thread for each at once is more than a machine holds. -/
set_option Elab.async false

/-! ### The stages of a tick -/

/-- The end of the hold touches the port, its waiting commands and their slots alone (R114). -/
theorem endHold_eq (s : State) (dnReady : Bool) : s.endHold dnReady =
    { s with
      port := (s.endHold dnReady).port
      waitingResets := (s.endHold dnReady).waitingResets
      bank := (s.endHold dnReady).bank } := by
  unfold State.endHold
  split
  · split
    · cases dnReady <;> rfl
    · rfl
  · rfl

theorem settle_tracker (s : State) : s.settle.tracker = s.tracker.map Entry.expire := by
  unfold State.settle
  rw [endHold_eq]
  rfl

theorem settle_deliveryLists (s : State) : s.settle.deliveryLists = s.deliveryLists := by
  unfold State.settle
  rw [endHold_eq]
  rfl

theorem settle_pending (s : State) : s.settle.pending = s.pending := by
  unfold State.settle
  rw [endHold_eq]
  rfl

theorem tickNow_tracker (s : State) : s.tickNow.tracker = s.tracker.map (Entry.tick s.settings.responseTimeout) := by
  unfold State.tickNow
  rfl

/-! ### Every command answers -/

theorem exec_answers (c : Instr) (s : State) : ∃ t, exec c s = .next t := by
  have htable (code : CommandCode) : ∃ t, exec (tableCommand code) s = .next t := by
    rw [exec_tableCommand]
    rcases runCommand_cases code (tableBody code) s with ⟨f, rest, k, -, -, he⟩ | he <;> exact ⟨_, he⟩
  cases c with
  | derive => exact htable .derive
  | shrink => exact htable .shrink
  | revoke => exact htable .revoke
  | bindDefault => exact htable .bindDefault
  | setInitiator => exact htable .setInitiator
  | resetMemoryPort => exact htable .resetMemoryPort
  | setControl => exact htable .setControl
  | readWindow => exact htable .readWindow
  | readInitiator => exact htable .readInitiator
  | readEvent => exact htable .readEvent
  | readStatus => exact htable .readStatus
  | _ => exact ⟨_, rfl⟩

theorem refuse_pending (s : State) (n : Initiator) (r : Request) (u : Tag) (kind : EventKind)
    (window : Option SlotIx) : (s.refuse n r u kind window).pending = s.pending := by
  unfold State.refuse
  dsimp only
  split <;> rfl

theorem timely_pending (s : State) (u : Tag) (x : Txn) (status : DnStatus) (data : List Beat) :
    (s.timely u x status data).pending = s.pending := by
  unfold State.timely
  dsimp only
  split <;> split <;> rfl

theorem deliverHead_pending (s : State) (n : Initiator) (u : Tag) : (s.deliverHead n u).pending = s.pending := by
  unfold State.deliverHead
  dsimp only
  split <;> rfl

theorem stage_pending (s : State) (n : Initiator) (k : RespIx) (target : Option Handle) :
    (s.stage n k target).pending = s.pending := by
  unfold State.stage
  dsimp only
  split <;> rfl

theorem releaseReset_pending (s : State) (bootEn : Bool) (bootId : Initiator) (csLow : Bool) :
    (s.releaseReset bootEn bootId csLow).pending = s.pending := by
  unfold State.releaseReset
  split
  · rfl
  · cases csLow with
    | false => rfl
    | true => cases hs : s.session <;> simp only [State.assertReset, State.resetEdge, hs, if_true]

theorem pendingEffects (s : State) : Effects s fun _ t => t.pending = s.pending where
  idle _ := rfl
  asserts := rfl
  releases bootEn bootId csLow _ := releaseReset_pending s bootEn bootId csLow
  ticks := (State.tickNow_pending _).trans (settle_pending s)
  arrives _ _ _ _ := rfl
  admits _ _ _ _ _ _ _ _ _ := rfl
  refuses n u r _ kind window _ _ _ _ := refuse_pending (s.leaveLane n) n r u kind window
  issues _ _ _ _ _ _ _ := rfl
  completes u x _ _ status data _ _ := timely_pending s u x status data
  late _ _ _ _ _ _ _ := rfl
  strays _ _ _ := rfl
  responsesExpire := rfl
  delivers _ _ n u _ _ _ _ _ := deliverHead_pending s n u
  drainsExpire := rfl
  stallsExpire := rfl
  frees pos e _ _ := s.freeSubtree_pending pos.val e
  holdEnds dnReady := by rw [endHold_eq]
  becomesReady _ := rfl
  commandEdges edges := (runEdges_linkOnly _ edges s).pending
  typeEdges := (runEdges_linkOnly _ _ s).pending
  fetchEdges edges := (runEdges_linkOnly _ edges s).pending
  answers _ _ _ _ _ _ := rfl
  derives _ _ _ _ _ _ _ _ _ := rfl
  shrinks _ _ _ _ _ _ _ _ := rfl
  accepts f rest k g _ _ _ := (s.deferred f rest k).acceptRevoke_pending g k
  replaces _ _ _ _ _ _ _ _ _ _ := rfl
  binds _ _ _ _ _ _ _ _ _ _ := rfl
  stages f rest k n target _ _ _ _ _ := stage_pending (s.deferred f rest k) n k target
  setsInitiator _ _ _ _ _ _ _ _ := rfl
  startsReset f rest k _ _ _ := (s.deferred f rest k).startReset_pending
  joinsReset _ _ _ _ _ _ := rfl
  setsControl _ _ _ _ _ _ _ := rfl
  readsEvent _ _ _ _ _ _ _ _ := rfl

/-- Settles O3: every arm answers a next state, and no effect touches the queue of waiting commands. -/
theorem commandsAlwaysAnswerNext : Obligations.CommandsAlwaysAnswerNext := by
  unfold Obligations.CommandsAlwaysAnswerNext
  intro c s
  obtain ⟨t, ht⟩ := exec_answers c s
  exact ⟨t, ht, (pendingEffects s).exec ht⟩

/-- Settles O1: the definition of a step, where a command waits. -/
theorem stepRunsFrontCommand : Obligations.StepRunsFrontCommand := by
  unfold Obligations.StepRunsFrontCommand
  intro c rest s hq
  unfold step
  rw [hq]

/-- Settles O4: RESETN_ASSERT establishes every law, and leaves the state after reset as it is. -/
theorem resetStateMeetsEveryLaw : Obligations.ResetStateMeetsEveryLaw := by
  unfold Obligations.ResetStateMeetsEveryLaw
  exact ⟨LinkLaw.assertReset .reset, OwnerLaw.assertReset .reset, TrackerLaw.assertReset .reset,
    CountLaw.of_reset rfl rfl, DefaultLaw.assertReset .reset, WindowLaw.of_reset rfl rfl, LogLaw.of_empty rfl,
    TimeLaw.assertReset .reset⟩

/-! ### Delivery lists -/

/-- How a delivery list can change out of reset (R86, R92). -/
def ListChange (s : State) (n : Initiator) (c : Instr) (t : State) : Prop :=
  t.resetn = true → t.deliveryLists[n] = s.deliveryLists[n] ∨
    (c = .take ∧ ∃ τ, s.tracker[τ] = .free ∧ t.deliveryLists[n] = s.deliveryLists[n] ++ [τ]) ∨
    ((∃ a, c = .delivery a ∨ c = .stagedCommit a) ∧ ∃ τ rest, s.deliveryLists[n] = τ :: rest ∧
      t.deliveryLists[n] = rest ∧ s.tracker[τ].deliverable = true ∧
      t.upOut = some (n, s.tracker[τ].response s.readStore[τ]))

namespace ListChange

variable {s t : State} {n : Initiator} {c : Instr}

theorem of_eq (h : t.deliveryLists = s.deliveryLists := by rfl) : ListChange s n c t :=
  fun _ => .inl (by rw [h])

/-- A take puts its tag at one list's tail. -/
theorem of_take {m : Initiator} {u : Tag} (hu : s.lowestFreeTag = some u)
    (h : t.deliveryLists = updAt s.deliveryLists m (· ++ [u])) : ListChange s n .take t := by
  intro _
  rw [h, updAt_get]
  split
  next hn => subst hn; exact .inr (.inl ⟨rfl, u, lowestFreeTag_free hu, rfl⟩)
  next => exact .inl rfl

theorem deliverHead_upOut (s : State) (n : Initiator) (u : Tag) :
    (s.deliverHead n u).upOut = some (n, s.tracker[u].response s.readStore[u]) := by
  unfold State.deliverHead
  dsimp only
  split <;> rfl

theorem of_delivery {m : Initiator} {u : Tag} {rest : List Tag} (hc : ∃ a, c = .delivery a ∨ c = .stagedCommit a)
    (hlist : s.deliveryLists[m] = u :: rest) (hu : s.tracker[u].deliverable = true) :
    ListChange s n c (s.deliverHead m u) := by
  intro _
  rw [(TrackerLaw.deliverHead_fields s m u).1, updAt_get]
  split
  next hn =>
    subst hn
    exact .inr (.inr ⟨hc, u, rest, hlist, by rw [hlist]; rfl, hu, deliverHead_upOut s n u⟩)
  next => exact .inl rfl

theorem refuse_deliveryLists (s : State) (n : Initiator) (r : Request) (u : Tag) (kind : EventKind)
    (window : Option SlotIx) :
    (s.refuse n r u kind window).deliveryLists = updAt s.deliveryLists n (· ++ [u]) := by
  unfold State.refuse
  dsimp only
  split <;> rfl

theorem stage_deliveryLists (s : State) (n : Initiator) (k : RespIx) (target : Option Handle) :
    (s.stage n k target).deliveryLists = s.deliveryLists := by
  unfold State.stage
  dsimp only
  split <;> rfl

theorem effects (hr : s.resetn = true) : Effects s (ListChange s n) where
  idle _ := of_eq
  asserts := fun h => absurd h nofun
  releases _ _ _ hlow := absurd (hr.symm.trans hlow) nofun
  ticks := of_eq ((State.tickNow_deliveryLists _).trans (settle_deliveryLists s))
  arrives _ _ _ _ := of_eq
  admits _ _ _ _ _ _ _ hu _ := of_take hu rfl
  refuses m u r _ kind window _ _ hu _ := of_take hu (refuse_deliveryLists (s.leaveLane m) m r u kind window)
  issues _ _ _ _ _ _ _ := of_eq
  completes u x _ _ status data _ _ := of_eq (TrackerLaw.timely_fields s u x status data).1
  late _ _ _ _ _ _ _ := of_eq
  strays _ _ _ := of_eq
  responsesExpire := of_eq
  delivers _ a _ _ _ hc _ hlist hu := of_delivery ⟨a, hc⟩ hlist hu
  drainsExpire := of_eq
  stallsExpire := of_eq
  frees pos e _ _ := of_eq (s.freeSubtree_deliveryLists pos.val e)
  holdEnds dnReady := of_eq (by rw [endHold_eq])
  becomesReady _ := of_eq
  commandEdges edges := of_eq (runEdges_linkOnly _ edges s).deliveryLists
  typeEdges := of_eq (runEdges_linkOnly _ _ s).deliveryLists
  fetchEdges edges := of_eq (runEdges_linkOnly _ edges s).deliveryLists
  answers _ _ _ _ _ _ := of_eq
  derives _ _ _ _ _ _ _ _ _ := of_eq
  shrinks _ _ _ _ _ _ _ _ := of_eq
  accepts f rest k g _ _ _ := of_eq ((s.deferred f rest k).acceptRevoke_deliveryLists g k)
  replaces _ _ _ _ _ _ _ _ _ _ := of_eq
  binds _ _ _ _ _ _ _ _ _ _ := of_eq
  stages f rest k m target _ _ _ _ _ := of_eq (stage_deliveryLists (s.deferred f rest k) m k target)
  setsInitiator _ _ _ _ _ _ _ _ := of_eq
  startsReset f rest k _ _ _ := of_eq (s.deferred f rest k).startReset_deliveryLists
  joinsReset _ _ _ _ _ _ := of_eq
  setsControl _ _ _ _ _ _ _ := of_eq
  readsEvent _ _ _ _ _ _ _ _ := of_eq

end ListChange

/-- Settles O33: only a take's entry and a delivery touch a list, one at its tail and one at its head. -/
theorem deliveryListsAreFifo : Obligations.DeliveryListsAreFifo := by
  unfold Obligations.DeliveryListsAreFifo
  exact fun c s t n ⟨hr, hx, hrt⟩ => (ListChange.effects hr).exec hx hrt

/-! ### Outcomes -/

/-- An entry with the same outcome: deliverable still, with the same status and shape. -/
def Entry.SameOutcome (e e' : Entry) : Prop :=
  e'.deliverable = true ∧ e'.status = e.status ∧ e'.shape = e.shape

theorem Entry.SameOutcome.refl {e : Entry} (h : e.deliverable = true) : e.SameOutcome e :=
  ⟨h, rfl, rfl⟩

theorem Entry.SameOutcome.portReset {e : Entry} (h : e.deliverable = true) : e.SameOutcome e.portReset := by
  cases e with
  | refused n kind len => exact ⟨rfl, rfl, rfl⟩
  | done x o => exact ⟨rfl, rfl, rfl⟩
  | expired x late => exact ⟨rfl, rfl, rfl⟩
  | free => cases h
  | queued x data => cases h
  | issued x elapsed due => cases h
  | orphaned x => cases h

theorem Entry.expire_of_deliverable {e : Entry} (h : e.deliverable = true) : e.expire = e := by
  unfold Entry.expire
  split
  · cases h
  · rfl

theorem Entry.tick_of_deliverable {e : Entry} (setting : Nat) (h : e.deliverable = true) : e.tick setting = e := by
  unfold Entry.tick
  split
  · cases h
  · rfl

/-- How a deliverable entry can change out of reset (R88). -/
def OutcomeKept (s : State) (τ : Tag) (c : Instr) (t : State) : Prop :=
  t.resetn = true → s.tracker[τ].deliverable = true → s.tracker[τ].SameOutcome t.tracker[τ] ∨
    ((∃ a, c = .delivery a ∨ c = .stagedCommit a) ∧ t.tracker[τ] = s.tracker[τ].afterDelivery)

namespace OutcomeKept

variable {s t : State} {τ : Tag} {c : Instr}

theorem of_eq (h : t.tracker = s.tracker := by rfl) : OutcomeKept s τ c t :=
  fun _ hd => .inl (by rw [h]; exact .refl hd)

/-- An entry that was not deliverable changed. -/
theorem of_set {u : Tag} {e : Entry} (hu : s.tracker[u].deliverable = false)
    (h : t.tracker = s.tracker.set u e) : OutcomeKept s τ c t := by
  intro _ hd
  rw [h, entry_set]
  split
  next hτ => subst hτ; rw [hu] at hd; cases hd
  next => exact .inl (.refl hd)

theorem map_get (tr : Vector Entry 32) (g : Entry → Entry) : (tr.map g)[τ] = g tr[τ] := by
  rw [Fin.getElem_fin, Vector.getElem_map]
  rfl

theorem settled_entry (h : s.tracker[τ].deliverable = true) : s.settle.tracker[τ] = s.tracker[τ] := by
  rw [settle_tracker, map_get, Entry.expire_of_deliverable h]

theorem ticks : OutcomeKept s τ c s.settle.tickNow := by
  intro _ hd
  have hs := settled_entry hd
  rw [tickNow_tracker, map_get, Entry.tick_of_deliverable _ (by rw [hs]; exact hd), hs]
  exact .inl (.refl hd)

theorem responsesExpire : OutcomeKept s τ c s.expireResponses := by
  intro _ hd
  have hget : s.expireResponses.tracker[τ] = s.tracker[τ].expire := map_get s.tracker Entry.expire
  rw [hget, Entry.expire_of_deliverable hd]
  exact .inl (.refl hd)

theorem late {u : Tag} {x : Txn} {after : Entry}
    (hu : s.tracker[u] = .expired x true ∧ after = .expired x false ∨ s.tracker[u] = .orphaned x ∧ after = .free) :
    OutcomeKept s τ c (s.late u x after) := by
  rcases hu with ⟨hu, rfl⟩ | ⟨hu, rfl⟩
  · intro _ hd
    rw [show (s.late u x (.expired x false)).tracker = s.tracker.set u (.expired x false) from rfl, entry_set]
    split
    next hτ => subst hτ; rw [hu]; exact .inl ⟨rfl, rfl, rfl⟩
    next => exact .inl (.refl hd)
  · exact of_set (u := u) (by rw [hu]; rfl) rfl

theorem delivers {n : Initiator} {u : Tag} (hc : ∃ a, c = .delivery a ∨ c = .stagedCommit a) :
    OutcomeKept s τ c (s.deliverHead n u) := by
  intro _ hd
  rw [(deliverHead_tracker s n u).1, entry_set]
  split
  next hτ => subst hτ; exact .inr ⟨hc, rfl⟩
  next => exact .inl (.refl hd)

theorem startsReset {k : RespIx} : OutcomeKept s τ c { s.startReset with waitingResets := s.waitingResets ++ [k] } := by
  intro _ hd
  rw [show ({ s.startReset with waitingResets := s.waitingResets ++ [k] } : State).tracker[τ] = s.startReset.tracker[τ]
    from rfl, CountLaw.startReset_tracker]
  exact .inl (.portReset hd)

theorem stage_tracker (s : State) (n : Initiator) (k : RespIx) (target : Option Handle) :
    (s.stage n k target).tracker = s.tracker := by
  unfold State.stage
  dsimp only
  split <;> rfl

theorem effects (hr : s.resetn = true) : Effects s (OutcomeKept s τ) where
  idle _ := of_eq
  asserts := fun h => absurd h nofun
  releases _ _ _ hlow := absurd (hr.symm.trans hlow) nofun
  ticks := ticks
  arrives _ _ _ _ := of_eq
  admits _ u _ _ _ _ _ hu _ := of_set (u := u) (by rw [lowestFreeTag_free hu]; rfl) rfl
  refuses n u r _ kind window _ _ hu _ :=
    of_set (u := u) (by rw [lowestFreeTag_free hu]; rfl) (refuse_tracker (s.leaveLane n) n r u kind window).1
  issues u _ _ _ _ _ hu := of_set (u := u) (by rw [hu]; rfl) rfl
  completes u x _ _ status data _ hu := by
    obtain ⟨o, ho⟩ := (timely_tracker s u x status data).1
    exact of_set (u := u) (by rw [hu]; rfl) ho
  late _ _ _ _ _ _ hu := late hu
  strays _ _ _ := of_eq
  responsesExpire := responsesExpire
  delivers _ a _ _ _ hc _ _ _ := delivers ⟨a, hc⟩
  drainsExpire := of_eq
  stallsExpire := of_eq
  frees pos e _ _ := of_eq (s.freeSubtree_tracker pos.val e)
  holdEnds dnReady := of_eq (by rw [endHold_eq])
  becomesReady _ := of_eq
  commandEdges edges := of_eq (runEdges_linkOnly _ edges s).tracker
  typeEdges := of_eq (runEdges_linkOnly _ _ s).tracker
  fetchEdges edges := of_eq (runEdges_linkOnly _ edges s).tracker
  answers _ _ _ _ _ _ := of_eq
  derives _ _ _ _ _ _ _ _ _ := of_eq
  shrinks _ _ _ _ _ _ _ _ := of_eq
  accepts f rest k g _ _ _ := of_eq ((s.deferred f rest k).acceptRevoke_tracker g k)
  replaces _ _ _ _ _ _ _ _ _ _ := of_eq
  binds _ _ _ _ _ _ _ _ _ _ := of_eq
  stages f rest k m target _ _ _ _ _ := of_eq (stage_tracker (s.deferred f rest k) m k target)
  setsInitiator _ _ _ _ _ _ _ _ := of_eq
  startsReset f rest k _ _ _ := startsReset (s := s.deferred f rest k)
  joinsReset _ _ _ _ _ _ := of_eq
  setsControl _ _ _ _ _ _ _ := of_eq
  readsEvent _ _ _ _ _ _ _ _ := of_eq

end OutcomeKept

/-- Settles O34: every effect but a delivery leaves a deliverable entry, or clears late-pending, which no outcome
shows. -/
theorem outcomesNeverChange : Obligations.OutcomesNeverChange := by
  unfold Obligations.OutcomesNeverChange
  exact fun c s t τ ⟨hr, hx, hrt⟩ hd => (OutcomeKept.effects hr).exec hx hrt hd

/-! ### Authority -/

theorem ofFn_get {α : Type} {n : Nat} (f : Fin n → α) (i : Fin n) : (Vector.ofFn f)[i] = f i := by
  rw [Fin.getElem_fin, Vector.getElem_ofFn]

theorem mapWindow_gen (f : Window → Window) (v : WindowSlot) : (v.mapWindow f).gen = v.gen := by
  unfold WindowSlot.mapWindow
  split <;> rfl

/-- `v` has no more authority than `w`, at the same place of the tree with the same relocation. -/
def Window.NoWider (v w : Window) : Prop :=
  v.inside w ∧ v.parent = w.parent ∧ v.depth = w.depth ∧ v.reloc = w.reloc ∧ v.offset = w.offset

theorem Window.inside_refl (w : Window) : w.inside w :=
  (Window.inside_iff w w).mpr ⟨le_rfl, le_rfl, ⟨id, id, id⟩, fun _ hn => hn⟩

/-- Only children set and in-flight count may differ. -/
theorem Window.NoWider.of_alike {v w : Window} (c : BitVec 64) (f : Nat)
    (h : v = { w with children := c, inFlight := f }) : v.NoWider w := by
  subst h
  exact ⟨Window.inside_refl w, rfl, rfl, rfl, rfl⟩

/-- A slot keeps its window's authority at most, and another generation comes with a free (R7). -/
structure WindowSlot.Narrows (v v' : WindowSlot) : Prop where
  window : ∀ w w', v.occ.window? = some w → v'.occ.window? = some w' → w'.NoWider w
  gen : v'.gen ≠ v.gen → v.isRevoking = true ∧ v'.isFree = true ∧ v'.gen = v.gen + 1#8

namespace WindowSlot.Narrows

theorem refl (v : WindowSlot) : v.Narrows v where
  window w w' h h' := by
    rw [h] at h'
    cases h'
    exact .of_alike w.children w.inFlight rfl
  gen h := absurd rfl h

theorem mapWindow {v : WindowSlot} {f : Window → Window} (hf : ∀ w, v.occ.window? = some w → (f w).NoWider w) :
    v.Narrows (v.mapWindow f) := by
  unfold WindowSlot.mapWindow
  cases ho : v.occ with
  | free => exact refl v
  | live w =>
    refine ⟨fun u u' h h' => ?_, fun h => absurd rfl h⟩
    have hu : u = w := by rw [ho] at h; exact (Option.some.inj h).symm
    cases h'
    rw [hu]
    exact hf w (by rw [ho]; rfl)
  | revoking w c =>
    refine ⟨fun u u' h h' => ?_, fun h => absurd rfl h⟩
    have hu : u = w := by rw [ho] at h; exact (Option.some.inj h).symm
    cases h'
    rw [hu]
    exact hf w (by rw [ho]; rfl)

/-- A slot that was FREE had no window to widen. -/
theorem of_free {v v' : WindowSlot} (hfree : v.occ = .free) (hgen : v'.gen = v.gen) : v.Narrows v' where
  window w w' h := by rw [hfree] at h; cases h
  gen h := absurd hgen h

theorem markSlot (m : BitVec 64) (root i : SlotIx) (v : WindowSlot) : v.Narrows (markSlot m root i v) where
  window w w' h h' := by
    rw [WindowLaw.markSlot_window] at h'
    exact (refl v).window w w' h h'
  gen h := absurd (WindowLaw.markSlot_gen m root i v) h

theorem freedSlot (t : Vector WindowSlot 64) (root i : SlotIx) : t[i].Narrows (freedSlot t root i) := by
  unfold Machine.freedSlot
  split
  next hc =>
    obtain ⟨w, hw⟩ := coveredBy_iff.mp hc
    exact ⟨fun _ _ _ h' => absurd h' nofun, fun _ => ⟨isRevoking_iff.mpr ⟨w, root, hw⟩, rfl, rfl⟩⟩
  next =>
    split
    · exact mapWindow fun w _ => .of_alike (w.children &&& ~~~slotBit root) w.inFlight rfl
    · exact refl _

end WindowSlot.Narrows

/-- How a slot can change out of reset. -/
def AuthorityKept (s : State) (i : SlotIx) (_c : Instr) (t : State) : Prop :=
  t.resetn = true → s.windows[i].Narrows t.windows[i]

namespace AuthorityKept

variable {s t : State} {i : SlotIx} {c : Instr}

theorem of_eq (h : t.windows = s.windows := by rfl) : AuthorityKept s i c t :=
  fun _ => by rw [h]; exact .refl _

theorem of_updAt {ix : SlotIx} {f : Window → Window} (h : t.windows = updAt s.windows ix (WindowSlot.mapWindow f))
    (hf : ∀ w, s.windows[ix].occ.window? = some w → (f w).NoWider w) : AuthorityKept s i c t := by
  intro _
  rw [h, updAt_get]
  split
  next hi => subst hi; exact .mapWindow hf
  next => exact .refl _

/-- A count in flight changed. -/
theorem of_count {ix : SlotIx} {f : Window → Window} (h : t.windows = updAt s.windows ix (WindowSlot.mapWindow f))
    (hf : ∀ w, f w = { w with inFlight := (f w).inFlight }) : AuthorityKept s i c t :=
  of_updAt h fun w _ => .of_alike w.children (f w).inFlight (hf w)

theorem narrows {f : Frame} {rest : List Frame} {k : RespIx} {a : ShrinkArgs} {ix : SlotIx}
    (hchecks : shrinkChecks s a = .ok ix) : AuthorityKept s i c ((s.answered f rest k .done []).narrowWindow ix a) := by
  obtain ⟨g, w₀, hg, -, ⟨-, hocc⟩, -, hnarrows, -, -⟩ := shrinkChecks_ok hchecks
  rw [slot_of_eq _ hg] at hocc
  refine of_updAt (ix := ix) (f := narrow a) rfl fun w hw => ?_
  rw [window_of_live hocc] at hw
  cases hw
  exact ⟨narrow_inside hnarrows, rfl, rfl, rfl, rfl⟩

theorem allocates {f : Frame} {rest : List Frame} {k : RespIx} {a : DeriveArgs} {plan : DerivePlan} {p : List Byte}
    (hchecks : deriveChecks s a = .ok plan) : AuthorityKept s i c ((s.answered f rest k .done p).allocate plan a) := by
  obtain ⟨g, hparent, hsound, -, -, hslot⟩ := deriveChecks_ok hchecks
  have hfree : s.windows[plan.slot].occ = .free := isFree_iff.mp (lowestFreeSlot_some.mp hslot).1.2
  intro _
  rw [WindowLaw.allocate_windows]
  split
  next hi =>
    subst hi
    refine .of_free hfree ?_
    dsimp only
    rw [updAt_get]
    split
    next hp =>
      rw [mapWindow_gen, slot_of_eq s.windows hp]
      rfl
    next => rfl
  next =>
    split
    next hi => subst hi; exact .mapWindow fun w _ => .of_alike (w.children ||| slotBit plan.slot) w.inFlight rfl
    next => exact .refl _

theorem effects (hr : s.resetn = true) : Effects s (AuthorityKept s i) where
  idle _ := of_eq
  asserts := fun h => absurd h nofun
  releases _ _ _ hlow := absurd (hr.symm.trans hlow) nofun
  ticks := of_eq ((State.tickNow_windows _).trans (settle_windows s))
  arrives _ _ _ _ := of_eq
  admits _ _ _ _ ix _ _ _ _ := of_count (ix := ix) (f := addInFlight) rfl fun _ => rfl
  refuses n u r _ kind window _ _ _ _ := of_eq (refuse_windows (s.leaveLane n) n r u kind window)
  issues _ _ _ _ _ _ _ := of_eq
  completes u x _ _ status data _ _ := of_count (timely_windows s u x status data) fun _ => rfl
  late u x after _ _ _ _ := of_count (late_windows s u x after) fun _ => rfl
  strays _ _ _ := of_eq
  responsesExpire := of_eq
  delivers _ _ n u _ _ _ _ _ := of_eq (deliverHead_windows s n u)
  drainsExpire := of_eq
  stallsExpire := of_eq
  frees pos e _ _ := fun _ => by
    rw [freeSubtree_windows, ofFn_get]
    exact .freedSlot s.windows e.root.index i
  holdEnds dnReady := of_eq (endHold_windows s dnReady)
  becomesReady _ := of_eq
  commandEdges edges := of_eq (runEdges_linkOnly _ edges s).windows
  typeEdges := of_eq (runEdges_linkOnly _ _ s).windows
  fetchEdges edges := of_eq (runEdges_linkOnly _ edges s).windows
  answers _ _ _ _ _ _ := of_eq
  derives _ _ _ _ _ _ _ _ hchecks := allocates hchecks
  shrinks _ _ _ _ _ _ _ hchecks := narrows hchecks
  accepts f rest k g _ _ _ := fun _ => by
    rw [acceptRevoke_windows, ofFn_get]
    exact .markSlot _ g.index i s.windows[i]
  replaces _ _ _ _ _ _ _ _ _ _ := of_eq
  binds _ _ _ _ _ _ _ _ _ _ := of_eq
  stages f rest k n target _ _ _ _ _ := of_eq (WindowLaw.stage_revocations (s.deferred f rest k) n k target).2
  setsInitiator _ _ _ _ _ _ _ _ := of_eq
  startsReset f rest k _ _ _ := fun _ => by
    rw [show ({ (s.deferred f rest k).startReset with waitingResets := s.waitingResets ++ [k] } : State).windows[i] =
      (s.deferred f rest k).startReset.windows[i] from rfl, CountLaw.startReset_windows]
    exact .mapWindow fun w _ => .of_alike w.children _ rfl
  joinsReset _ _ _ _ _ _ := of_eq
  setsControl _ _ _ _ _ _ _ := of_eq
  readsEvent _ _ _ _ _ _ _ _ := of_eq

end AuthorityKept

/-- Settles O52: only a SHRINK touches what a window may do, inside what it was, and only a free its generation. -/
theorem authorityOnlyNarrows : Obligations.AuthorityOnlyNarrows := by
  unfold Obligations.AuthorityOnlyNarrows
  intro c s t i ⟨hr, hx, hrt⟩
  obtain ⟨hwindow, hgen⟩ := (AuthorityKept.effects (i := i) hr).exec hx hrt
  exact ⟨hwindow, hgen⟩

end Sys2Proof.Machine

/-! SUPPORT. Time: what the expiries, the tick and a REFCLK period do, and the two inputs of the port and the lanes
(R29, R68, R100, R110, R114, R149, R164 to R167). -/

namespace Sys2Proof.Machine

/- One proof after another: a thread for each at once is more than a machine holds. -/
set_option Elab.async false

theorem map_get {α β : Type} {n : Nat} (v : Vector α n) (g : α → β) (i : Fin n) : (v.map g)[i] = g v[i] := by
  rw [Fin.getElem_fin, Vector.getElem_map]
  rfl

/-! ### Expiries -/

theorem expireDrains_context (s : State) (n : Initiator) :
    s.expireDrains.contexts[n] = { s.contexts[n] with rebind := s.contexts[n].rebind.expire } :=
  map_get s.contexts _ n

theorem expireResponses_entry (s : State) (τ : Tag) : s.expireResponses.tracker[τ] = s.tracker[τ].expire :=
  map_get s.tracker _ τ

theorem settle_context (s : State) (n : Initiator) :
    s.settle.contexts[n] = { s.contexts[n] with rebind := s.contexts[n].rebind.expire } := by
  unfold State.settle
  rw [endHold_eq]
  exact expireDrains_context s n

theorem settle_entry (s : State) (τ : Tag) : s.settle.tracker[τ] = s.tracker[τ].expire := by
  rw [settle_tracker, map_get]

theorem settle_revocations (s : State) : s.settle.revocations = s.revocations.map RevEntry.giveNotice := by
  unfold State.settle
  rw [endHold_eq]
  rfl

theorem settle_resetn (s : State) : s.settle.resetn = s.resetn := by
  unfold State.settle
  rw [endHold_eq]
  rfl

theorem Rebind.expire_due (r : Rebind) (p : Pending) (h : r.expire = .staged p) : p.due = false := by
  unfold Rebind.expire at h
  split at h
  next q =>
    split at h
    · cases h
    next hdue => cases h; exact Bool.eq_false_iff.mpr hdue
  next hnot => exact absurd h (hnot p)

theorem Rebind.expire_settled {r : Rebind} (h : ∀ p, r = .staged p → p.due = false) : r.expire = r := by
  unfold Rebind.expire
  split
  next p => rw [h p rfl, if_neg Bool.false_ne_true]
  next => rfl

theorem Entry.expire_due (e : Entry) {x : Txn} {elapsed : Nat} {due : Bool} (h : e.expire = .issued x elapsed due) :
    due = false := by
  unfold Entry.expire at h
  split at h
  · cases h
  next hnot =>
    cases due with
    | false => rfl
    | true => exact absurd h (hnot x elapsed)

theorem Entry.expire_settled {e : Entry} (h : ∀ x elapsed due, e = .issued x elapsed due → due = false) :
    e.expire = e := by
  unfold Entry.expire
  split
  next x elapsed => cases h x elapsed true rfl
  next => rfl

theorem RevEntry.stalled_iff (e : RevEntry) : e.stalled = true ↔ ∃ elapsed, e.stall = .running elapsed true := by
  unfold RevEntry.stalled
  cases e.stall with
  | stopped => exact ⟨nofun, nofun⟩
  | running elapsed due =>
    dsimp only
    exact ⟨fun h => ⟨elapsed, by rw [h]⟩, fun ⟨_, h⟩ => by cases h; rfl⟩

theorem RevEntry.giveNotice_due (e : RevEntry) {elapsed : Nat} {due : Bool}
    (h : e.giveNotice.stall = .running elapsed due) : due = false := by
  unfold RevEntry.giveNotice at h
  split at h
  · cases h
  next hnot =>
    cases due with
    | false => rfl
    | true => exact absurd (e.stalled_iff.mpr ⟨elapsed, h⟩) hnot

theorem RevEntry.not_stalled {e : RevEntry} (h : ∀ elapsed due, e.stall = .running elapsed due → due = false) :
    e.stalled = false := by
  refine Bool.eq_false_iff.mpr fun hs => ?_
  obtain ⟨elapsed, he⟩ := e.stalled_iff.mp hs
  cases h elapsed true he

theorem RevEntry.giveNotice_of_not {e : RevEntry} (h : e.stalled = false) : e.giveNotice = e := by
  rw [RevEntry.giveNotice, if_neg (by rw [h]; exact Bool.false_ne_true)]

/-- In the hold's state a 16th tick has ended it (R114). -/
theorem endHold_port {s : State} {c : Nat} (h : (s.endHold false).port = .holding c) : c < Config.holdTicks := by
  unfold State.endHold at h
  split at h
  next b hb =>
    split at h
    · cases h
    next hlt =>
      rw [hb] at h
      cases h
      exact Nat.lt_of_not_le hlt
  next hnot => exact absurd h (hnot c)

/-- After the expiries none is marked. -/
theorem settle_settled (s : State) : Settled s.settle where
  drains n p h := by
    rw [settle_context] at h
    exact Rebind.expire_due _ p h
  responses τ x elapsed due h := by
    rw [settle_entry] at h
    exact Entry.expire_due _ h
  stalls e he elapsed due h := by
    rw [settle_revocations] at he
    obtain ⟨e', -, rfl⟩ := List.mem_map.mp he
    exact RevEntry.giveNotice_due e' h
  hold c h := endHold_port h

/-! ### Settled states -/

theorem endHold_before {s : State} {c : Nat} (dnReady : Bool) (hp : s.port = .holding c) (hc : c < Config.holdTicks) :
    s.endHold dnReady = s := by
  unfold State.endHold
  rw [hp]
  dsimp only
  rw [if_neg (Nat.not_le.mpr hc)]

theorem endHold_not_holding {s : State} (dnReady : Bool) (hp : ∀ c, s.port ≠ .holding c) : s.endHold dnReady = s := by
  unfold State.endHold
  split
  next c h => exact absurd h (hp c)
  next => rfl

namespace Settled

variable {s : State}

theorem endHold (h : Settled s) : s.endHold false = s := by
  by_cases hp : ∃ c, s.port = .holding c
  · obtain ⟨c, hc⟩ := hp
    exact endHold_before false hc (h.hold c hc)
  · exact endHold_not_holding false fun c hc => hp ⟨c, hc⟩

theorem expireResponses (h : Settled s) : s.expireResponses = s := by
  have hmap : s.tracker.map Entry.expire = s.tracker := by
    refine Vector.ext fun i hi => ?_
    rw [Vector.getElem_map]
    exact Entry.expire_settled (h.responses ⟨i, hi⟩)
  have hevents : (List.finRange 32).filterMap (timeoutEvent s.tracker) = [] := by
    refine List.filterMap_eq_nil_iff.mpr fun τ _ => ?_
    unfold timeoutEvent
    split
    next x elapsed hτ => cases h.responses τ x elapsed true hτ
    next => rfl
  unfold State.expireResponses
  rw [hmap, hevents]
  rfl

theorem expireDrains (h : Settled s) : s.expireDrains = s := by
  have hmap : (s.contexts.map fun c : Context => { c with rebind := c.rebind.expire }) = s.contexts := by
    refine Vector.ext fun i hi => ?_
    rw [Vector.getElem_map]
    exact congrArg (fun r => { s.contexts[i] with rebind := r }) (Rebind.expire_settled (h.drains ⟨i, hi⟩))
  have hevents : (List.finRange 8).filterMap (fenceEvent s.contexts) = [] := by
    refine List.filterMap_eq_nil_iff.mpr fun n _ => ?_
    unfold fenceEvent
    split
    next p hp => rw [h.drains n p hp, if_neg Bool.false_ne_true]
    next => rfl
  unfold State.expireDrains
  rw [hmap, hevents]
  rfl

theorem expireStalls (h : Settled s) : s.expireStalls = s := by
  have hnot (e : RevEntry) (he : e ∈ s.revocations) : e.stalled = false := RevEntry.not_stalled (h.stalls e he)
  have hmap : s.revocations.map RevEntry.giveNotice = s.revocations :=
    (List.map_congr_left fun e he => RevEntry.giveNotice_of_not (hnot e he)).trans (List.map_id' _)
  have hevents : s.revocations.filter RevEntry.stalled = [] :=
    List.filter_eq_nil_iff.mpr fun e he => by rw [hnot e he]; exact Bool.false_ne_true
  unfold State.expireStalls
  rw [hmap, hevents]
  rfl

/-- A settled state has nothing to settle. -/
theorem settle (h : Settled s) : s.settle = s := by
  unfold State.settle
  rw [h.endHold, h.expireResponses, h.expireDrains, h.expireStalls]

end Settled

theorem settlesTo (s : State) (hr : s.resetn = true) : SettlesTo s s.settle := by
  have hend : (s.endHold false).resetn = true := by rw [endHold_eq]; exact hr
  exact ⟨s.endHold false, (s.endHold false).expireResponses, (s.endHold false).expireResponses.expireDrains,
    whenOutOfReset_high (·.endHold false) hr, whenOutOfReset_high _ hend, whenOutOfReset_high _ hend,
    whenOutOfReset_high _ hend⟩

theorem refclkPeriod_settle {s : State} (hr : s.resetn = true) : s.settle.refclkPeriod = s.refclkPeriod := by
  unfold State.refclkPeriod
  rw [if_pos hr, if_pos ((settle_resetn s).trans hr), (settle_settled s).settle]

theorem step_idle {s : State} (h : s.pending = []) : step s = .next s.refclkPeriod := by
  unfold step
  rw [h]

/-- Settles O2: a period settles what is marked, and then ticks or counts. -/
theorem emptyQueuePassesRefclkPeriod : Obligations.EmptyQueuePassesRefclkPeriod := by
  unfold Obligations.EmptyQueuePassesRefclkPeriod
  intro s hidle
  have hsettled : s.settle.pending = [] := (settle_pending s).trans hidle
  refine ⟨fun hr => ⟨s.settle, settlesTo s hr, settle_settled s, (settle_resetn s).trans hr, hsettled, ?_⟩,
    fun hr hs hdue => ?_, fun hr hs hlt => ?_, fun hr => ?_⟩
  · rw [step_idle hidle, step_idle hsettled, refclkPeriod_settle hr]
  · rw [step_idle hidle, State.refclkPeriod, if_pos hr, hs.settle]
    dsimp only
    rw [if_pos hdue, show exec .tick s = _ from whenOutOfReset_high (·.settle.tickNow) hr, hs.settle]
  · rw [step_idle hidle, State.refclkPeriod, if_pos hr, hs.settle]
    dsimp only
    rw [if_neg (Nat.not_le.mpr hlt)]
  · rw [step_idle hidle, State.refclkPeriod, if_neg (by rw [hr]; exact Bool.false_ne_true)]

/-! ### TICK -/

theorem exec_tick {s : State} (hr : s.resetn = true) : exec .tick s = .next s.settle.tickNow :=
  whenOutOfReset_high (·.settle.tickNow) hr

theorem tickNow_context (s : State) (n : Initiator) : s.tickNow.contexts[n] =
    { s.contexts[n] with rebind := s.contexts[n].rebind.tick s.settings.drainDeadline } := by
  unfold State.tickNow
  exact map_get s.contexts _ n

theorem tickNow_entry (s : State) (τ : Tag) :
    s.tickNow.tracker[τ] = s.tracker[τ].tick s.settings.responseTimeout := by
  unfold State.tickNow
  exact map_get s.tracker _ τ

theorem tickNow_revocations (s : State) :
    s.tickNow.revocations = s.revocations.map (RevEntry.tick s.settings.stallNotice) := by
  unfold State.tickNow
  rfl

theorem tickNow_port (s : State) : s.tickNow.port = s.port.tick := by
  unfold State.tickNow
  rfl

theorem tickNow_eq (s : State) : s.tickNow =
    { s with
      divider := 0, interval := s.settings.prescale, tickCount := s.tickCount + 1#32
      contexts := s.tickNow.contexts, tracker := s.tickNow.tracker, revocations := s.tickNow.revocations
      port := s.tickNow.port } := by
  unfold State.tickNow
  rfl

theorem expires_eq (setting elapsed : Nat) : expires setting elapsed = decide (setting ≠ 0 ∧ setting ≤ elapsed) := by
  rw [expires, Bool.decide_and]

theorem notice_expires (given : Bool) (setting elapsed : Nat) :
    (!given && expires setting elapsed) = decide (given = false ∧ setting ≠ 0 ∧ setting ≤ elapsed) := by
  cases given <;> simp [expires_eq]

theorem RevEntry.tick_running {e : RevEntry} {elapsed : Nat} {due : Bool} (setting : Nat)
    (h : e.stall = .running elapsed due) : e.tick setting =
      { e with
        stall := .running (min 65535 (elapsed + 1))
          (decide (e.noticeGiven = false ∧ setting ≠ 0 ∧ setting ≤ min 65535 (elapsed + 1))) } := by
  unfold RevEntry.tick
  rw [h]
  dsimp only
  rw [notice_expires]
  rfl

theorem RevEntry.tick_stopped {e : RevEntry} (setting : Nat) (h : e.stall = .stopped) : e.tick setting = e := by
  unfold RevEntry.tick
  rw [h]

/-- Settles O16: each kind of timer rises where it runs, and is compared with its setting. -/
theorem tickAdvancesTimeAndTimers : Obligations.TickAdvancesTimeAndTimers := by
  unfold Obligations.TickAdvancesTimeAndTimers
  refine ⟨fun s hr => ?_, fun s hr hs => ⟨s.tickNow, ?_, tickNow_eq s, fun n => ?_, fun τ => ?_, ?_, fun i e he => ?_,
    fun c hc => ?_, fun hc => ?_⟩⟩
  · have hr' := (settle_resetn s).trans hr
    refine ⟨s.settle, settlesTo s hr, settle_settled s, hr', ?_⟩
    rw [exec_tick hr, exec_tick hr', (settle_settled s).settle]
  · rw [exec_tick hr, hs.settle]
  · rw [tickNow_context]
    refine ⟨rfl, fun h => ?_, fun p h => ?_, fun p h => ?_⟩ <;> dsimp only <;> rw [h] <;> rfl
  · rw [tickNow_entry]
    refine ⟨fun x e d h => ?_, fun h => ?_⟩
    · rw [h, Entry.tick, expires_eq]
      rfl
    · unfold Entry.tick
      split
      next x e d hτ => exact absurd hτ (h x e d)
      next => rfl
  · rw [tickNow_revocations, List.length_map]
  · rw [tickNow_revocations, List.getElem?_map, he]
    refine ⟨fun h => ?_, fun el d h => ?_⟩
    · rw [Option.map_some, RevEntry.tick_stopped _ h]
    · rw [Option.map_some, RevEntry.tick_running _ h]
  · rw [tickNow_port, hc, PortState.tick, min_eq_right (hs.hold c hc)]
  · rw [tickNow_port]
    unfold PortState.tick
    split
    next c h => exact absurd h (hc c)
    next => rfl

/-! ### The expiries as commands -/

/-- Settles O17: the entries marked are those that expire, and their records are handed in tag order. -/
theorem responseTimeoutExpiresDueEntries : Obligations.ResponseTimeoutExpiresDueEntries := by
  unfold Obligations.ResponseTimeoutExpiresDueEntries
  intro s hr
  refine ⟨s.expireResponses, whenOutOfReset_high _ hr, rfl, fun τ => ?_, ?_⟩
  · rw [expireResponses_entry]
    refine ⟨fun x e h => by rw [h]; rfl, fun h => ?_⟩
    unfold Entry.expire
    split
    next x e hτ => exact absurd hτ (h x e)
    next => rfl
  · refine congrArg (List.foldl _ s.log) (List.filterMap_congr fun τ _ => ?_)
    unfold timeoutEvent
    rcases s.tracker[τ] with _ | _ | _ | ⟨x, e, _ | _⟩ | _ | _ | _ <;> rfl

/-- Settles O18: the bindings marked are those that are fenced, and their records are handed in initiator order. -/
theorem drainTimerExpiryFencesDueBindings : Obligations.DrainTimerExpiryFencesDueBindings := by
  unfold Obligations.DrainTimerExpiryFencesDueBindings
  intro s hr
  refine ⟨s.expireDrains, whenOutOfReset_high _ hr, rfl, fun n => ?_, ?_⟩
  · rw [expireDrains_context]
    refine ⟨rfl, fun p h hdue => ?_, Rebind.expire_settled⟩
    rw [h, Rebind.expire, if_pos hdue]
  · refine congrArg (List.foldl _ s.log) (List.filterMap_congr fun n _ => ?_)
    unfold fenceEvent
    cases s.contexts[n].rebind <;> rfl

/-! ### Drain sums -/

theorem sum_map_filter {α : Type} (p : α → Bool) (f : α → Nat) (l : List α) :
    ((l.filter p).map f).sum = (l.map fun a => if p a = true then f a else 0).sum := by
  induction l with
  | nil => rfl
  | cons a l ih =>
    rw [List.map_cons, List.sum_cons, ← ih]
    by_cases hp : p a = true
    · rw [List.filter_cons_of_pos hp, List.map_cons, List.sum_cons, if_pos hp]
    · rw [List.filter_cons_of_neg hp, if_neg hp, Nat.zero_add]

/-- The drain sum adds the counts of the windows that the entry covers (R145). -/
theorem drainSum_eq (t : Vector WindowSlot 64) (root : SlotIx) :
    drainSum t root = ((List.finRange 64).map fun j =>
      match t[j].occ with
      | .revoking w c => if c = root then w.inFlight else 0
      | _ => 0).sum := by
  unfold drainSum coveredSlots
  rw [sum_map_filter]
  congr 1
  refine List.map_congr_left fun i _ => ?_
  unfold WindowSlot.coveredBy WindowSlot.inFlight
  cases t[i].occ with
  | free => rfl
  | live w => rfl
  | revoking w c =>
    dsimp only [Occupancy.window?]
    simp only [beq_iff_eq]

/-- Settles O19: the entries marked are those whose timer stops, and their records are handed in list order. -/
theorem stallTimerExpiryGivesDueNotices : Obligations.StallTimerExpiryGivesDueNotices := by
  unfold Obligations.StallTimerExpiryGivesDueNotices
  intro s hr
  refine ⟨s.expireStalls, whenOutOfReset_high _ hr, rfl, List.length_map _, fun i e he => ?_, ?_⟩
  · have hget : s.expireStalls.revocations[i]? = some e.giveNotice := by
      rw [show s.expireStalls.revocations = s.revocations.map RevEntry.giveNotice from rfl, List.getElem?_map, he]
      rfl
    rw [hget]
    refine ⟨fun el h => ?_, fun h => ?_⟩
    · rw [RevEntry.giveNotice, if_pos (e.stalled_iff.mpr ⟨el, h⟩)]
    · rw [RevEntry.giveNotice_of_not (Bool.eq_false_iff.mpr fun hs => ?_)]
      obtain ⟨el, hel⟩ := e.stalled_iff.mp hs
      exact h el hel
  · refine congrArg (List.foldl _ s.log) ?_
    rw [← List.filterMap_eq_map, List.filterMap_filter]
    refine List.filterMap_congr fun e _ => ?_
    unfold RevEntry.stalled
    rcases e.stall with _ | ⟨el, _ | _⟩
    · rfl
    · rfl
    · exact congrArg (fun total => some ({
          kind := .revokeStalled
          desc := { window := some e.root.index, handle := some e.root, inFlightTotal := some total } } : Event))
        (drainSum_eq s.windows e.root.index)

/-! ### The port's hold and the ready input -/

theorem dnrstnLow_iff (s : State) : s.dnrstnLow = true ↔ ∃ c, s.port = .holding c := by
  unfold State.dnrstnLow
  cases s.port with
  | ready => exact ⟨nofun, nofun⟩
  | holding c => exact ⟨fun _ => ⟨c, rfl⟩, fun _ => rfl⟩
  | awaitingReady => exact ⟨nofun, nofun⟩

theorem exec_holdEnd {s : State} (dnReady : Bool) (hr : s.resetn = true) :
    exec (.holdEnd dnReady) s = .next (s.endHold dnReady) :=
  whenOutOfReset_high (·.endHold dnReady) hr

theorem endHold_done {s : State} (dnReady : Bool) (hp : s.port = .holding 16) : s.endHold dnReady =
    if dnReady then ({ s with port := .awaitingReady } : State).becomeReady else { s with port := .awaitingReady } := by
  unfold State.endHold
  rw [hp]
  rfl

theorem exec_portReady {s : State} (hr : s.resetn = true) :
    exec .portReady s = .next (if s.port = .awaitingReady then s.becomeReady else s) :=
  whenOutOfReset_high (fun s => if s.port = .awaitingReady then s.becomeReady else s) hr

/-- Settles O20: the hold ends at its 16th tick, into AWAITING_READY, and from there as PORT_READY does. -/
theorem holdEndReleasesDownstreamReset : Obligations.HoldEndReleasesDownstreamReset := by
  unfold Obligations.HoldEndReleasesDownstreamReset
  refine ⟨dnrstnLow_iff, fun s hr => ⟨fun hp => ⟨(dnrstnLow_iff s).mpr ⟨16, hp⟩, fun dnReady => ?_, ?_, ?_⟩,
    fun c dnReady hp hc => ?_⟩⟩
  · refine ⟨s.endHold dnReady, exec_holdEnd dnReady hr, ?_⟩
    rw [endHold_done dnReady hp]
    cases dnReady <;> rfl
  · rw [exec_holdEnd false hr, endHold_done false hp]
    rfl
  · rw [exec_holdEnd true hr, endHold_done true hp, exec_portReady (s := { s with port := .awaitingReady }) hr]
    rfl
  · rw [exec_holdEnd dnReady hr, endHold_before dnReady hp hc]

/-- Different reserved slots are filled one after another, each for the command that reserved it (R114, R178). -/
theorem fills_reserved (o : CmdOutcome) (ks : List RespIx) :
    ∀ b : SlotBank, ks.Nodup → (∀ k ∈ ks, ∃ seq code, b.slots[k] = .reserved seq code) →
      ((ks.map fun k => ({ slot := k, outcome := o } : Fill)).foldl SlotBank.fill b).order = b.order ++ ks ∧
      ∀ (k : RespIx) (seq : Byte) (code : CommandCode), k ∈ ks → b.slots[k] = .reserved seq code →
        ((ks.map fun k => ({ slot := k, outcome := o } : Fill)).foldl SlotBank.fill b).slots[k] =
          .filled ⟨seq, code, o, []⟩ := by
  induction ks with
  | nil => exact fun b _ _ => ⟨(List.append_nil _).symm, nofun⟩
  | cons j ks ih =>
    intro b hnodup hres
    obtain ⟨hj, hnodup⟩ := List.nodup_cons.mp hnodup
    obtain ⟨seq, code, hslot⟩ := hres j List.mem_cons_self
    have hne {k : RespIx} (hk : k ∈ ks) : k ≠ j := fun he => hj (he ▸ hk)
    have hkeep {k : RespIx} (hk : k ∈ ks) : (b.fill ⟨j, o, []⟩).slots[k] = b.slots[k] :=
      fill_slots_other (f := ⟨j, o, []⟩) (hne hk)
    obtain ⟨horder, hfilled⟩ := ih (b.fill ⟨j, o, []⟩) hnodup fun k hk => by
      rw [hkeep hk]; exact hres k (List.mem_cons_of_mem _ hk)
    rw [List.map_cons, List.foldl_cons]
    refine ⟨?_, fun k seq' code' hk hr => ?_⟩
    · rw [horder, fill_reserved o [] hslot, List.append_assoc]
      rfl
    · rcases List.mem_cons.mp hk with rfl | hk
      · rw [fills_slots_other (by simpa using hj), fill_reserved o [] hr]
        dsimp only
        rw [slot_set, if_pos rfl]
      · exact hfilled k seq' code' hk (by rw [hkeep hk]; exact hr)

/-- Settles O21: the waiting commands are answered one after another, each in the slot reserved for it. -/
theorem portReadyAnswersWaitingResets : Obligations.PortReadyAnswersWaitingResets := by
  unfold Obligations.PortReadyAnswersWaitingResets
  refine fun s hr => ⟨fun hp hlaw => ?_, fun hp => ?_⟩
  · have hnodup : s.waitingResets.Nodup := (List.nodup_append'.mp hlaw.nodup).2.1
    obtain ⟨horder, hfilled⟩ := fills_reserved .done s.waitingResets s.bank hnodup fun k hk => by
      obtain ⟨seq, hres⟩ := hlaw.resetting k hk
      exact ⟨seq, _, hres⟩
    refine ⟨s.becomeReady, by rw [exec_portReady hr, if_pos hp], rfl, horder, fun k hk => ?_, hfilled⟩
    exact fills_slots_other (by simpa using hk)
  · rw [exec_portReady hr, if_neg hp]

/-- Settles O22: the lane's length decides. -/
theorem upstreamRequestJoinsLaneTail : Obligations.UpstreamRequestJoinsLaneTail := by
  unfold Obligations.UpstreamRequestJoinsLaneTail
  intro s n r hr hcomplete
  have hx : exec (.upstreamRequest n r) s = .next (s.arrive n r) := whenOutOfReset_high (State.arrive · n r) hr
  refine ⟨fun hlen => ?_, fun hlen => ?_⟩
  · rw [hx, State.arrive, hcomplete, Bool.true_and,
      if_pos (decide_eq_true (show s.lanes[n].length < Config.laneDepth from hlen))]
    rfl
  · rw [hx, State.arrive, if_neg fun hroom => ?_]
    exact absurd (of_decide_eq_true ((Bool.and_eq_true _ _).mp hroom).2) (Nat.not_lt.mpr hlen)

end Sys2Proof.Machine

/-! SUPPORT. The check order of an admission against the table of section 2.6, the take, and the two arbiters (R32 to
R44, R78, R86 to R89). -/

namespace Sys2Proof.Machine

/- One proof after another: a thread for each at once is more than a machine holds. -/
set_option Elab.async false

/-! ### The check order -/

section Judge

variable {s : State} {n : Initiator} {r : Request} {ix : SlotIx} {w : Window}

theorem judgeAgainst_live (r : Request) (hocc : s.windows[ix].occ = .live w) : s.judgeAgainst r ix =
    if !w.perms.grants r.kind then .refuse (noPermission r.kind) (some ix)
    else if !withinWindow r w then .refuse .outOfBounds (some ix)
    else .admitted ix := by
  unfold State.judgeAgainst
  rw [window_of_live hocc]

theorem judgeAgainst_denied (hocc : s.windows[ix].occ = .live w) (h : ¬w.allows r.kind) :
    s.judgeAgainst r ix = .refuse (noPermission r.kind) (some ix) := by
  rw [judgeAgainst_live r hocc, if_pos (by rw [Bool.not_eq_true', ← Bool.not_eq_true, grants_iff]; exact h)]

theorem judgeAgainst_outside (hocc : s.windows[ix].occ = .live w) (h : w.allows r.kind) (hc : ¬w.covers r) :
    s.judgeAgainst r ix = .refuse .outOfBounds (some ix) := by
  rw [judgeAgainst_live r hocc, if_neg (by simp [(grants_iff w r.kind).mpr h]),
    if_pos (by rw [Bool.not_eq_true', ← Bool.not_eq_true, withinWindow_iff]; exact hc)]

theorem judgeAgainst_passes (hocc : s.windows[ix].occ = .live w) (h : w.allows r.kind) (hc : w.covers r) :
    s.judgeAgainst r ix = .admitted ix := by
  rw [judgeAgainst_live r hocc, if_neg (by simp [(grants_iff w r.kind).mpr h]),
    if_neg (by simp [(withinWindow_iff r w).mpr hc])]

/-- A request that passes every check is admitted (R41). -/
theorem judge_of_admitted (h : Admitted s n r ix w) :
    s.judge n r = .admitted ix ∧ s.windows[ix].occ = .live w := by
  obtain ⟨hopen, hplaced, hagainst, hallows, hcovers⟩ := h
  obtain ⟨hjudge, hocc⟩ := judge_of_judgedAgainst hopen hplaced hagainst
  exact ⟨hjudge.trans (judgeAgainst_passes hocc hallows hcovers), hocc⟩

theorem judge_placed (hopen : s.contexts[n].state = .opened) (hplaced : placed r) : s.judge n r =
    match r.handle with
    | some h => s.judgeHandle n r h
    | none =>
      match s.contexts[n].current with
      | none => .refuse .noDefault none
      | some h => s.judgeAgainst r h.index := by
  unfold State.judge
  exact (if_neg (by rw [hopen]; exact nofun)).trans (if_neg (by simp [(wellPlaced_iff r).mpr hplaced]))

theorem judge_handle {h : Handle} (hopen : s.contexts[n].state = .opened) (hplaced : placed r)
    (hhandle : r.handle = some h) : s.judge n r = s.judgeHandle n r h := by
  rw [judge_placed hopen hplaced, hhandle]

theorem judgeHandle_valid {h : Handle} (h0 : h.index ≠ 0) (hvalid : s.validHandle h = true) : s.judgeHandle n r h =
    match s.windows[h.index].occ with
    | .free => .refuse .staleHandle none
    | .revoking _ _ => .refuse .revoking (some h.index)
    | .live w =>
      if !w.holders.getLsbD n.val then .refuse .notHolder (some h.index) else s.judgeAgainst r h.index := by
  unfold State.judgeHandle
  exact (if_neg h0).trans (if_neg (by simp [hvalid]))

/-- A request is refused by the first check it fails (R37 to R40, R43). -/
theorem judge_of_refused {kind : EventKind} {win : Option SlotIx} (h : Refused s n r kind win) :
    s.judge n r = .refuse kind win := by
  have hagainst {ix : SlotIx} {w : Window} (hopen : s.contexts[n].state = .opened) (hplaced : placed r)
      (hj : JudgedAgainst s n r ix w) : s.judge n r = s.judgeAgainst r ix ∧ s.windows[ix].occ = .live w :=
    judge_of_judgedAgainst hopen hplaced hj
  cases h with
  | closed hclosed => rw [State.judge, if_pos hclosed]
  | malformed hopen hplaced =>
    rw [State.judge, if_neg (by rw [hopen]; exact nofun),
      if_pos (by rw [Bool.not_eq_true', ← Bool.not_eq_true, wellPlaced_iff]; exact hplaced)]
  | rootNamed h hopen hplaced hhandle h0 => rw [judge_handle hopen hplaced hhandle, State.judgeHandle, if_pos h0]
  | staleHandle h hopen hplaced hhandle h0 hstale =>
    rw [judge_handle hopen hplaced hhandle, State.judgeHandle, if_neg h0,
      if_pos (by rw [not_validHandle_of_stale hstale]; rfl)]
  | revoking h hopen hplaced hhandle h0 hrevoking =>
    obtain ⟨hgen, w, c, hocc⟩ := hrevoking
    rw [judge_handle hopen hplaced hhandle, judgeHandle_valid h0 (validHandle_of_revoking ⟨hgen, w, c, hocc⟩), hocc]
  | notHolder h w hopen hplaced hhandle h0 hlive hholder =>
    rw [judge_handle hopen hplaced hhandle, judgeHandle_valid h0 (validHandle_of_live hlive), hlive.2]
    dsimp only
    rw [if_pos (by rw [hholder]; rfl)]
  | noDefault hopen hplaced hnone hcurrent => rw [judge_placed hopen hplaced, hnone, hcurrent]
  | noRead ix w hopen hplaced hj hkind hread =>
    obtain ⟨hjudge, hocc⟩ := hagainst hopen hplaced hj
    rw [hjudge, judgeAgainst_denied hocc (by rw [hkind, Window.allows, hread]; exact Bool.false_ne_true), hkind]
    rfl
  | noWrite ix w hopen hplaced hj hkind hwrite =>
    obtain ⟨hjudge, hocc⟩ := hagainst hopen hplaced hj
    rw [hjudge, judgeAgainst_denied hocc (by rw [hkind, Window.allows, hwrite]; exact Bool.false_ne_true), hkind]
    rfl
  | outOfBounds ix w hopen hplaced hj hallows hcovers =>
    obtain ⟨hjudge, hocc⟩ := hagainst hopen hplaced hj
    rw [hjudge, judgeAgainst_outside hocc hallows hcovers]

/-- Once its window is settled, a request passes or fails a check of steps 5 and 6 (R40). -/
theorem admitted_or_refused_against (hopen : s.contexts[n].state = .opened) (hplaced : placed r)
    (hj : JudgedAgainst s n r ix w) : (∃ ix w, Admitted s n r ix w) ∨ ∃ kind win, Refused s n r kind win := by
  by_cases hallows : w.allows r.kind
  · by_cases hcovers : w.covers r
    · exact .inl ⟨ix, w, hopen, hplaced, hj, hallows, hcovers⟩
    · exact .inr ⟨_, _, .outOfBounds ix w hopen hplaced hj hallows hcovers⟩
  · cases hkind : r.kind with
    | read =>
      rw [hkind] at hallows
      exact .inr ⟨_, _, .noRead ix w hopen hplaced hj hkind (Bool.eq_false_iff.mpr hallows)⟩
    | write =>
      rw [hkind] at hallows
      exact .inr ⟨_, _, .noWrite ix w hopen hplaced hj hkind (Bool.eq_false_iff.mpr hallows)⟩

/-- Every request is admitted or refused by the table of section 2.6. -/
theorem admitted_or_refused (hlaw : DefaultLaw s) (n : Initiator) (r : Request) :
    (∃ ix w, Admitted s n r ix w) ∨ ∃ kind win, Refused s n r kind win := by
  cases hopen : s.contexts[n].state with
  | closed => exact .inr ⟨_, _, .closed hopen⟩
  | opened =>
    by_cases hplaced : placed r
    · cases hhandle : r.handle with
      | none =>
        cases hcurrent : s.contexts[n].current with
        | none => exact .inr ⟨_, _, .noDefault hopen hplaced hhandle hcurrent⟩
        | some h =>
          obtain ⟨hgen, w, hocc, hholder⟩ := hlaw n h (.inl hcurrent)
          exact admitted_or_refused_against hopen hplaced (.byDefault h w hhandle hcurrent ⟨hgen, hocc⟩ hholder)
      | some h =>
        by_cases h0 : h.index = 0
        · exact .inr ⟨_, _, .rootNamed h hopen hplaced hhandle h0⟩
        · rcases handle_cases s h with hstale | ⟨w, hlive⟩ | hrevoking
          · exact .inr ⟨_, _, .staleHandle h hopen hplaced hhandle h0 hstale⟩
          · cases hholder : w.holders.getLsbD n.val with
            | false => exact .inr ⟨_, _, .notHolder h w hopen hplaced hhandle h0 hlive hholder⟩
            | true => exact admitted_or_refused_against hopen hplaced (.byHandle h w hhandle h0 hlive hholder)
          · exact .inr ⟨_, _, .revoking h hopen hplaced hhandle h0 hrevoking⟩
    · exact .inr ⟨_, _, .malformed hopen hplaced⟩

end Judge

/-! ### The take -/

theorem exec_take {s : State} {n : Initiator} {r : Request} {rest : List Request} {τ : Tag} (hr : s.resetn = true)
    (hn : s.grantedLane = some n) (hlane : s.lanes[n] = r :: rest) (hτ : s.lowestFreeTag = some τ) :
    exec .take s = .next (s.takeFrom n τ r) := by
  rw [show exec .take s = .next s.takeOne from whenOutOfReset_high _ hr, State.takeOne, hn, hτ]
  dsimp only
  rw [hlane]

theorem leaveLane_eq {s : State} {n : Initiator} {r : Request} {rest : List Request} (hlane : s.lanes[n] = r :: rest) :
    s.leaveLane n = { s with lanes := s.lanes.set n rest, admitPtr := n + 1 } := by
  rw [State.leaveLane, updAt_eq_set s.lanes n List.tail (a := rest) (by rw [hlane]; rfl)]

/-- Settles O23: a request that passes every check is admitted, and its entry made under the tag. -/
theorem takeAdmitsUnderJudgedWindow : Obligations.TakeAdmitsUnderJudgedWindow := by
  unfold Obligations.TakeAdmitsUnderJudgedWindow
  intro s n r rest τ ix w hr hn hlane hτ hadmitted
  obtain ⟨hjudge, hocc⟩ := judge_of_admitted hadmitted
  have hslot : s.windows[ix].mapWindow addInFlight =
      ⟨s.windows[ix].gen, .live { w with inFlight := w.inFlight + 1 }⟩ := by
    rw [WindowSlot.mapWindow, hocc]
    rfl
  rw [exec_take hr hn hlane hτ, State.takeFrom, hjudge]
  dsimp only
  rw [leaveLane_eq hlane, State.enterAdmitted, State.enter]
  dsimp only
  rw [updAt_eq_set s.windows ix _ hslot]
  rfl

theorem updAt_updAt {α : Type} {n : Nat} (v : Vector α n) (i : Fin n) (f g : α → α) :
    updAt (updAt v i f) i g = updAt v i (g ∘ f) := by
  simp [updAt]

theorem quarantines_eq (c : Context) :
    c.quarantines = decide (c.state = .opened ∧ c.policy = .quarantine) := by
  rcases c with ⟨_ | _, _ | _, _, _, _⟩ <;> rfl

/-- Settles O24: the first failed check gives the kind, and the policy closes the initiator. -/
theorem takeRefusesByFirstFailedCheck : Obligations.TakeRefusesByFirstFailedCheck := by
  unfold Obligations.TakeRefusesByFirstFailedCheck
  refine ⟨fun s n r rest τ kind win q hr hn hlane hτ hrefused hq => ?_, fun s n r hlaw => admitted_or_refused hlaw n r⟩
  rw [← quarantines_eq] at hq
  subst hq
  rw [exec_take hr hn hlane hτ, State.takeFrom, judge_of_refused hrefused]
  dsimp only
  rw [leaveLane_eq hlane, State.refuse, State.enter]
  dsimp only
  cases hq : s.contexts[n].quarantines with
  | false => rfl
  | true =>
    rw [if_pos rfl]
    unfold State.updContext
    dsimp only
    rw [updAt_updAt]
    rfl

/-! ### The arbiters -/

theorem entry_isFree_iff (e : Entry) : e.isFree = true ↔ e = .free := by
  cases e with
  | free => exact ⟨fun _ => rfl, fun _ => rfl⟩
  | _ => exact ⟨nofun, nofun⟩

theorem lowestFreeTag_isSome (s : State) : s.lowestFreeTag.isSome = true ↔ ∃ τ : Tag, s.tracker[τ] = .free := by
  rw [State.lowestFreeTag, List.find?_isSome]
  exact ⟨fun ⟨τ, _, hτ⟩ => ⟨τ, (entry_isFree_iff _).mp hτ⟩,
    fun ⟨τ, hτ⟩ => ⟨τ, List.mem_finRange τ, (entry_isFree_iff _).mpr hτ⟩⟩

theorem Rebind.isFencing_false (b : Rebind) : b.isFencing = false ↔ ∀ p, b ≠ .fencing p := by
  cases b with
  | fencing p => exact ⟨nofun, fun h => absurd rfl (h p)⟩
  | none => exact ⟨fun _ => nofun, fun _ => rfl⟩
  | staged p => exact ⟨fun _ => nofun, fun _ => rfl⟩

/-- Eligibility in the words of R32. -/
theorem eligible_iff (s : State) (n : Initiator) : s.eligible n = true ↔
    s.lanes[n] ≠ [] ∧ s.port = .ready ∧ (∃ τ : Tag, s.tracker[τ] = .free) ∧ s.contexts[n].undelivered < 8 ∧
      ∀ p, s.contexts[n].rebind ≠ .fencing p := by
  unfold State.eligible
  rw [Bool.and_eq_true, Bool.and_eq_true, Bool.and_eq_true, Bool.and_eq_true, lowestFreeTag_isSome, decide_eq_true_eq,
    beq_iff_eq, Bool.not_eq_true', Bool.not_eq_true', List.isEmpty_eq_false_iff, Rebind.isFencing_false, and_assoc,
    and_assoc, and_assoc]
  rfl

theorem deliverable_iff (e : Entry) : e.deliverable = true ↔
    (∃ m kind len, e = .refused m kind len) ∨ (∃ x o, e = .done x o) ∨ ∃ x late, e = .expired x late := by
  cases e with
  | refused m kind len => exact iff_of_true rfl (.inl ⟨m, kind, len, rfl⟩)
  | done x o => exact iff_of_true rfl (.inr (.inl ⟨x, o, rfl⟩))
  | expired x late => exact iff_of_true rfl (.inr (.inr ⟨x, late, rfl⟩))
  | _ => exact iff_of_false nofun (by rintro (⟨_, _, _, h⟩ | ⟨_, _, h⟩ | ⟨_, _, h⟩) <;> cases h)

theorem deliverableHead_iff (s : State) (n : Initiator) : s.deliverableHead n = true ↔
    ∃ τ rest, s.deliveryLists[n] = τ :: rest ∧ s.tracker[τ].deliverable = true := by
  unfold State.deliverableHead
  cases s.deliveryLists[n] with
  | nil => exact ⟨nofun, fun ⟨_, _, h, _⟩ => by cases h⟩
  | cons τ rest => exact ⟨fun h => ⟨τ, rest, rfl, h⟩, fun ⟨_, _, h, hd⟩ => by cases h; exact hd⟩

/-- The tag allocated is the lowest FREE one (R78). -/
theorem lowestFreeTag_iff (s : State) (τ : Tag) : s.lowestFreeTag = some τ ↔
    s.tracker[τ] = .free ∧ ∀ u : Tag, u < τ → s.tracker[u] ≠ .free := by
  rw [lowestFreeTag_some, entry_isFree_iff]
  refine and_congr_right fun _ => forall_congr' fun u => imp_congr_right fun _ => ?_
  rw [← Bool.not_eq_true, entry_isFree_iff]

/-- A grant moves the pointer past the place granted, closer to every other place that waits no nearer (R34, R89). -/
theorem grant_closer : ∀ ptr n m : Fin 8, (n - ptr).val ≤ (m - ptr).val →
    n = m ∨ (m - (n + 1)).val < (m - ptr).val := by
  intro ptr n m hle
  by_cases hnm : n = m
  · exact .inl hnm
  · refine .inr ?_
    have hval : n.val ≠ m.val := fun h => hnm (Fin.ext h)
    simp only [Fin.val_sub, Fin.val_add, Fin.val_one] at hle ⊢
    omega

theorem refuse_admitPtr (s : State) (n : Initiator) (r : Request) (u : Tag) (kind : EventKind) (win : Option SlotIx) :
    (s.refuse n r u kind win).admitPtr = s.admitPtr := by
  unfold State.refuse
  dsimp only
  split <;> rfl

theorem takeFrom_admitPtr (s : State) (n : Initiator) (u : Tag) (r : Request) :
    (s.takeFrom n u r).admitPtr = n + 1 := by
  unfold State.takeFrom
  split
  · rfl
  · exact refuse_admitPtr (s.leaveLane n) n r u _ _

/-- With an eligible lane a TAKE grants one, and its pointer passes it (R34). -/
theorem take_grants {s t : State} {m : Initiator} (hr : s.resetn = true) (hm : s.eligible m = true)
    (hx : exec .take s = .next t) : ∃ n, s.grantedLane = some n ∧ t.admitPtr = n + 1 := by
  obtain ⟨n, hn⟩ : ∃ n, s.grantedLane = some n :=
    Option.ne_none_iff_exists'.mp fun hnone => by rw [roundRobin_none.mp hnone m] at hm; cases hm
  obtain ⟨hlane, -, hfree, -⟩ := (eligible_iff s n).mp (roundRobin_some.mp hn).1
  obtain ⟨τ, hτ⟩ := Option.isSome_iff_exists.mp ((lowestFreeTag_isSome s).mpr hfree)
  obtain ⟨r, rest, hlane⟩ := List.exists_cons_of_ne_nil hlane
  rw [exec_take hr hn hlane hτ] at hx
  cases hx
  exact ⟨n, hn, takeFrom_admitPtr s n τ r⟩

theorem take_idle {s : State} (hr : s.resetn = true) (h : ∀ n, s.eligible n = false) : exec .take s = .next s := by
  rw [show exec .take s = .next s.takeOne from whenOutOfReset_high _ hr, State.takeOne,
    show s.grantedLane = none from roundRobin_none.mpr h]

theorem exec_delivery {s : State} (accepting : BitVec 8) (hr : s.resetn = true) :
    exec (.delivery accepting) s = .next (s.deliverOne accepting) :=
  whenOutOfReset_high (·.deliverOne accepting) hr

theorem deliverOne_grants {s : State} {accepting : BitVec 8} {n : Initiator} {τ : Tag} {rest : List Tag}
    (hn : s.grantedResponse accepting = some n) (hlist : s.deliveryLists[n] = τ :: rest) :
    s.deliverOne accepting = s.deliverHead n τ := by
  unfold State.deliverOne
  rw [hn]
  dsimp only
  rw [hlist]

theorem grantedResponse_iff (s : State) (accepting : BitVec 8) (n : Initiator) :
    s.grantedResponse accepting = some n ↔ accepting.getLsbD n.val = true ∧ s.deliverableHead n = true ∧
      ∀ m : Initiator, accepting.getLsbD m.val = true → s.deliverableHead m = true →
        (n - s.respPtr).val ≤ (m - s.respPtr).val := by
  rw [State.grantedResponse, roundRobin_some, Bool.and_eq_true, and_assoc]
  refine and_congr_right fun _ => and_congr_right fun _ => forall_congr' fun m => ?_
  rw [Bool.and_eq_true, and_imp]

theorem grantedResponse_none {s : State} {accepting : BitVec 8}
    (h : ∀ n : Initiator, accepting.getLsbD n.val = true → s.deliverableHead n = false) :
    s.grantedResponse accepting = none := by
  refine roundRobin_none.mpr fun n => ?_
  cases ha : accepting.getLsbD n.val with
  | false => rfl
  | true => rw [h n ha]; rfl

theorem deliverHead_respPtr (s : State) (n : Initiator) (τ : Tag) : (s.deliverHead n τ).respPtr = n + 1 := by
  unfold State.deliverHead
  dsimp only
  split <;> rfl

/-- With a candidate a delivery grants one, and its pointer passes it (R89). -/
theorem delivery_grants {s t : State} {accepting : BitVec 8} {m : Initiator} (hr : s.resetn = true)
    (ha : accepting.getLsbD m.val = true) (hd : s.deliverableHead m = true)
    (hx : exec (.delivery accepting) s = .next t) :
    ∃ n, s.grantedResponse accepting = some n ∧ t.respPtr = n + 1 := by
  obtain ⟨n, hn⟩ : ∃ n, s.grantedResponse accepting = some n :=
    Option.ne_none_iff_exists'.mp fun hnone => by
      have := roundRobin_none.mp hnone m
      rw [ha, hd] at this
      cases this
  obtain ⟨τ, rest, hlist, -⟩ := (deliverableHead_iff s n).mp ((grantedResponse_iff s accepting n).mp hn).2.1
  rw [exec_delivery accepting hr, deliverOne_grants hn hlist] at hx
  cases hx
  exact ⟨n, hn, deliverHead_respPtr s n τ⟩

/-- Settles O25: a search finds the nearest place that passes, and a grant moves the pointer past it. -/
theorem arbitersAreRoundRobin : Obligations.ArbitersAreRoundRobin := by
  unfold Obligations.ArbitersAreRoundRobin
  refine ⟨fun s n => ⟨eligible_iff s n, ?_, lowestFreeTag_iff s⟩, fun s hr => ⟨fun n => roundRobin_some,
    take_idle hr, fun m t hm hx => ?_, fun accepting => ⟨grantedResponse_iff s accepting, fun m t ha hd hx => ?_⟩⟩⟩
  · rw [deliverableHead_iff]
    simp only [deliverable_iff]
  · obtain ⟨n, hn, hptr⟩ := take_grants hr hm hx
    exact ⟨n, hn, hptr, hptr ▸ grant_closer s.admitPtr n m ((roundRobin_some.mp hn).2 m hm)⟩
  · obtain ⟨n, hn, hptr⟩ := delivery_grants hr ha hd hx
    exact ⟨n, hn, hptr, hptr ▸ grant_closer s.respPtr n m (((grantedResponse_iff s accepting n).mp hn).2.2 m ha hd)⟩

end Sys2Proof.Machine

/-! SUPPORT. The memory port and the deliveries: what is sent, what a response makes of its entry, what a port reset
resolves, what a delivery hands up. -/

namespace Sys2Proof.Machine
/- One proof after another: a thread for each at once is more than a machine holds. -/
set_option Elab.async false

/-! ### Sending (R103, R104) -/

theorem toNat_ofInt_addr {v : Int} (h0 : 0 ≤ v) (h1 : v < 1099511627776) : ((BitVec.ofInt 40 v).toNat : Int) = v := by
  rw [BitVec.toNat_ofInt]
  omega

theorem offset_of_window {v : WindowSlot} {w : Window} (h : v.occ.window? = some w) : v.offset = w.offset := by
  unfold WindowSlot.offset
  rw [h]

theorem issue_of_head {s : State} {τ : Tag} {rest : List Tag} {x : Txn} {data : List Beat} (hport : s.port = .ready)
    (hforward : s.forward = τ :: rest) (hentry : s.tracker[τ] = .queued x data) :
    s.issue =
      { s with
        forward := rest
        tracker := s.tracker.set τ (.issued x 0 false)
        dnOut := some ⟨τ, x.kind, s.translate x, x.len, data⟩ } := by
  have hoffered : s.offered = some ⟨τ, x.kind, s.translate x, x.len, data⟩ := by
    unfold State.offered
    rw [hport, hforward]
    dsimp only
    rw [hentry]
  unfold State.issue
  rw [hoffered, hforward]
  dsimp only
  rw [hentry]

/-- Settles O27: the effective offset translates the address within 40 bits. -/
theorem downstreamAcceptIssuesForwardHead : Obligations.DownstreamAcceptIssuesForwardHead := by
  unfold Obligations.DownstreamAcceptIssuesForwardHead
  intro s τ rest x data w hr hport hforward hentry hw h0 h1
  refine ⟨s.translate x, ?_, ?_⟩
  · rw [State.translate, offset_of_window hw]
    exact toNat_ofInt_addr h0 h1
  · rw [show exec .downstreamAccept s = .next s.issue from whenOutOfReset_high _ hr,
      issue_of_head hport hforward hentry]

/-! ### Responses (R105 to R108) -/

theorem exec_response {s : State} (τ : Tag) (status : DnStatus) (data : List Beat) (hr : s.resetn = true) :
    exec (.downstreamResponse τ status data) s = .next (s.respond τ status data) :=
  whenOutOfReset_high (·.respond τ status data) hr

theorem respond_issued {s : State} {τ : Tag} {x : Txn} {e : Nat} {d : Bool} (status : DnStatus) (data : List Beat)
    (hport : s.port = .ready) (hentry : s.tracker[τ] = .issued x e d) :
    s.respond τ status data = s.timely τ x status data := by
  rw [State.respond, if_pos hport, hentry]

theorem responseOk_write {x : Txn} (data : List Beat) (hkind : x.kind = .write) : responseOk x .ok data = true := by
  simp [responseOk, hkind]

theorem responseOk_read {x : Txn} {data : List Beat} (hkind : x.kind = .read)
    (hlen : data.length = beatCount x.len) : responseOk x .ok data = true := by
  simp [responseOk, hkind, hlen]

theorem responseOk_bad {x : Txn} {status : DnStatus} {data : List Beat}
    (h : status ≠ .ok ∨ (x.kind = .read ∧ data.length ≠ beatCount x.len)) : responseOk x status data = false := by
  rcases h with h | ⟨hkind, hlen⟩
  · cases status <;> simp_all [responseOk]
  · simp [responseOk, hkind, hlen]

theorem timely_write {s : State} {τ : Tag} {x : Txn} {status : DnStatus} {data : List Beat}
    (hok : responseOk x status data = true) (hkind : x.kind = .write) :
    s.timely τ x status data = { s with tracker := s.tracker.set τ (.done x .okay) }.releaseWindow x.window := by
  unfold State.timely
  rw [hok, hkind]
  rfl

theorem timely_read {s : State} {τ : Tag} {x : Txn} {status : DnStatus} {data : List Beat}
    (hok : responseOk x status data = true) (hkind : x.kind = .read) :
    s.timely τ x status data =
      { { s with tracker := s.tracker.set τ (.done x .okay) }.releaseWindow x.window with
        readStore := updAt s.readStore τ (writeBeats · data) } := by
  unfold State.timely
  rw [hok, hkind]
  rfl

theorem timely_error {s : State} {τ : Tag} {x : Txn} {status : DnStatus} {data : List Beat}
    (hok : responseOk x status data = false) :
    s.timely τ x status data =
      { { s with tracker := s.tracker.set τ (.done x .memoryError) }.releaseWindow x.window with
        log := s.log.hand s.tickCount (portEvent .memoryError τ x) } := by
  unfold State.timely
  rw [hok]
  rfl

/-- Settles O28: by the status, the kind and the number of beats. -/
theorem timelyResponseCompletesEntry : Obligations.TimelyResponseCompletesEntry := by
  unfold Obligations.TimelyResponseCompletesEntry
  intro s τ x e d status data hr hport hentry
  rw [exec_response τ status data hr, respond_issued status data hport hentry]
  refine ⟨fun hstatus hkind => ?_, fun hstatus hkind hlen => ?_, fun hbad => ?_⟩
  · subst hstatus
    rw [timely_write (responseOk_write data hkind) hkind]
  · subst hstatus
    rw [timely_read (responseOk_read hkind hlen) hkind]
    refine ⟨_, rfl, rfl, fun j hj => ?_, fun j hj => ?_, fun other hother => updAt_other _ _ _ _ hother⟩
    · dsimp only
      rw [updAt_self, writeBeats_get, List.getD_eq_getElem?_getD, List.getElem?_eq_getElem (hlen ▸ hj)]
      rfl
    · dsimp only
      rw [updAt_self, writeBeats_get, List.getD_eq_default _ _ (hlen ▸ hj)]
  · rw [timely_error (responseOk_bad hbad)]
    rfl

theorem respond_late {s : State} {τ : Tag} {x : Txn} (status : DnStatus) (data : List Beat) (hport : s.port = .ready)
    (hentry : s.tracker[τ] = .expired x true ∨ s.tracker[τ] = .orphaned x) :
    s.respond τ status data =
      s.late τ x (if s.tracker[τ] = Entry.orphaned x then .free else .expired x false) := by
  rw [State.respond, if_pos hport]
  rcases hentry with hentry | hentry <;> rw [hentry]
  · rw [if_neg (by simp)]
  · rw [if_pos rfl]

/-- An entry that owes no downstream response: unclassified, resolved or waiting to be sent. -/
theorem respond_stray {s : State} {τ : Tag} (status : DnStatus) (data : List Beat) (hport : s.port = .ready)
    (hentry : s.tracker[τ].holds = none ∨ s.tracker[τ].isQueued = true) :
    s.respond τ status data = s.logAll [strayEvent τ] := by
  rw [State.respond, if_pos hport]
  split
  next x e d h => rw [h] at hentry; simp [Entry.holds, Entry.isQueued] at hentry
  next x h => rw [h] at hentry; simp [Entry.holds, Entry.isQueued] at hentry
  next x h => rw [h] at hentry; simp [Entry.holds, Entry.isQueued] at hentry
  next => rfl

/-- Settles O29: by the state of the entry that the response names. -/
theorem lateStrayAndDiscardedResponses : Obligations.LateStrayAndDiscardedResponses := by
  unfold Obligations.LateStrayAndDiscardedResponses
  intro s τ x status data hr
  rw [exec_response τ status data hr]
  refine ⟨fun hport hentry => ?_, fun hport hentry => ?_, fun hport => ?_⟩
  · rw [respond_late status data hport hentry]
    rfl
  · rw [respond_stray status data hport hentry]
    rfl
  · rw [State.respond, if_neg hport]

/-! ### RESET_MEMORY_PORT (R112, R113) -/

theorem exec_resetMemoryPort {s : State} {f : Frame} {rest : List Frame} {k : RespIx} (ht : Takes s f rest k)
    (hc : f.code = .resetMemoryPort) :
    exec .resetMemoryPort s = .next (resetPortBody k f.payload (s.deferred f rest k)) :=
  exec_takes ht hc

theorem resetPortBody_ready (k : RespIx) (p : List Byte) {s : State} (hport : s.port = .ready) :
    resetPortBody k p s = { s.startReset with waitingResets := s.waitingResets ++ [k] } := by
  rw [resetPortBody, if_pos hport, State.startReset_waitingResets]

theorem resetPortBody_joins (k : RespIx) (p : List Byte) {s : State} (hport : s.port ≠ .ready) :
    resetPortBody k p s = { s with waitingResets := s.waitingResets ++ [k] } := by
  rw [resetPortBody, if_neg hport]

theorem portReset_of_holds_none {e : Entry} (h : e.holds = none) : e.portReset = e := by
  cases e with
  | expired x late => cases late <;> simp_all [Entry.holds, Entry.portReset]
  | _ => simp_all [Entry.holds, Entry.portReset]

/-- Settles O30: entry by entry, by the state it is found in. -/
theorem resetMemoryPortResolvesEveryOwedEntry : Obligations.ResetMemoryPortResolvesEveryOwedEntry := by
  unfold Obligations.ResetMemoryPortResolvesEveryOwedEntry
  intro s f rest k ht hc
  rw [exec_resetMemoryPort ht hc]
  refine ⟨fun hport => ?_, fun hport => by rw [resetPortBody_joins k f.payload (s := s.deferred f rest k) hport]; rfl⟩
  rw [resetPortBody_ready k f.payload (s := s.deferred f rest k) hport]
  have htracker (τ : Tag) : (s.deferred f rest k).startReset.tracker[τ] = s.tracker[τ].portReset :=
    CountLaw.startReset_tracker (s.deferred f rest k) τ
  have hwindows (i : SlotIx) : (s.deferred f rest k).startReset.windows[i] =
      s.windows[i].mapWindow (subInFlight (heldBy s.tracker i)) :=
    CountLaw.startReset_windows (s.deferred f rest k) i
  refine ⟨_, rfl, by unfold State.startReset; rfl, by rw [State.dnrstnLow]; dsimp only; rw [OwnerLaw.startReset_port],
    fun τ => ⟨fun x d h => ?_, fun x e d h => ?_, fun x b h => ?_, fun x h => ?_, fun h => ?_⟩, hwindows,
    fun hlaw i => (congrArg _ (hwindows i)).trans (hlaw.inFlight_startReset i)⟩
  · exact (htracker τ).trans (by rw [h]; rfl)
  · exact (htracker τ).trans (by rw [h]; rfl)
  · exact (htracker τ).trans (by rw [h]; rfl)
  · exact (htracker τ).trans (by rw [h]; rfl)
  · exact (htracker τ).trans (portReset_of_holds_none h)

/-! ### Deliveries (R66, R92) -/

theorem deliverHead_no_commit {s : State} {n : Initiator} (τ : Tag)
    (h : s.contexts[n].rebind = .none ∨ 1 < s.contexts[n].undelivered) : s.deliverHead n τ = s.handUp n τ := by
  have hdue : (s.handUp n τ).commitDue n = none := by
    rw [State.commitDue, handUp_contexts, updAt_self]
    dsimp only
    rcases h with hrebind | hcount
    · rw [hrebind]
      split <;> rfl
    · exact if_neg (by omega)
  rw [State.deliverHead, hdue]

theorem deliverHead_commit {s : State} {n : Initiator} (τ : Tag) {p : Pending} (hone : s.contexts[n].undelivered = 1)
    (hp : s.contexts[n].rebind.pending? = some p) : s.deliverHead n τ = (s.handUp n τ).commit n p := by
  have hdue : (s.handUp n τ).commitDue n = some p := by
    rw [commitDue_some, handUp_contexts, updAt_self]
    exact ⟨by dsimp only; rw [hone], hp⟩
  rw [State.deliverHead, hdue]

theorem handUp_of_list {s : State} {n : Initiator} {τ : Tag} {rest : List Tag}
    (hlist : s.deliveryLists[n] = τ :: rest) :
    s.handUp n τ =
      { s with
        deliveryLists := s.deliveryLists.set n rest
        contexts := s.contexts.set n { s.contexts[n] with undelivered := s.contexts[n].undelivered - 1 }
        tracker := s.tracker.set τ s.tracker[τ].afterDelivery
        respPtr := n + 1
        upOut := some (n, s.tracker[τ].response s.readStore[τ]) } := by
  rw [State.handUp, updAt_eq_set s.deliveryLists n List.tail (a := rest) (by rw [hlist]; rfl)]
  rfl

theorem deliverOne_idle {s : State} {accepting : BitVec 8}
    (h : ∀ n : Initiator, accepting.getLsbD n.val = true → s.deliverableHead n = false) :
    s.deliverOne accepting = s := by
  rw [State.deliverOne, grantedResponse_none h]

theorem response_write {e : Entry} {len : Fin 16} (slot : Vector Beat 16) (h : e.shape = some (.write, len)) :
    e.response slot = ⟨e.status, []⟩ := by
  rw [Entry.response, h]

theorem response_okay {e : Entry} {len : Fin 16} (slot : Vector Beat 16) (h : e.shape = some (.read, len))
    (hok : e.status = .okay) : e.response slot = ⟨.okay, slot.toList.take (beatCount len)⟩ := by
  rw [Entry.response, h, hok]
  rfl

theorem response_zeros {e : Entry} {len : Fin 16} (slot : Vector Beat 16) (h : e.shape = some (.read, len))
    (hok : e.status ≠ .okay) : e.response slot = ⟨e.status, List.replicate (beatCount len) 0#64⟩ := by
  rw [Entry.response, h]
  dsimp only
  rw [if_neg hok]

/-- Settles O31: the grant, the entry's response by its status and shape, and what the delivery leaves. -/
theorem deliveryHandsUpHeadResponse : Obligations.DeliveryHandsUpHeadResponse := by
  unfold Obligations.DeliveryHandsUpHeadResponse
  refine ⟨fun s accepting n τ rest hr hn hlist hnone => ?_, fun s accepting hr hidle => ?_,
    fun x slot n len o late => ⟨fun hkind => ?_, fun hkind => ?_, ?_, ?_, rfl, rfl, rfl, rfl⟩⟩
  · rw [exec_delivery accepting hr, deliverOne_grants hn hlist, deliverHead_no_commit τ hnone, handUp_of_list hlist]
  · rw [exec_delivery accepting hr, deliverOne_idle hidle]
  · have hshape : some (x.kind, x.len) = some (.write, x.len) := by rw [hkind]
    exact ⟨response_write slot hshape, response_write slot hshape, response_write slot hshape,
      response_write slot hshape⟩
  · have hshape : some (x.kind, x.len) = some (.read, x.len) := by rw [hkind]
    exact ⟨response_okay slot hshape rfl, response_zeros slot hshape (by simp [Entry.status]),
      response_zeros slot hshape (by simp [Entry.status]), response_zeros slot hshape (by simp [Entry.status])⟩
  · exact response_zeros slot rfl (by simp [Entry.status])
  · exact response_write slot rfl

theorem exec_stagedCommit {s : State} {accepting : BitVec 8} (hr : s.resetn = true)
    (hcommits : s.grantCommits accepting = true) :
    exec (.stagedCommit accepting) s = .next (s.deliverOne accepting) := by
  rw [show exec (.stagedCommit accepting) s =
    .next (if s.grantCommits accepting then s.deliverOne accepting else s) from
      whenOutOfReset_high (fun s => if s.grantCommits accepting then s.deliverOne accepting else s) hr,
    if_pos hcommits]

theorem grantCommits_of_pending {s : State} {accepting : BitVec 8} {n : Initiator} {p : Pending}
    (hn : s.grantedResponse accepting = some n) (hone : s.contexts[n].undelivered = 1)
    (hp : s.contexts[n].rebind.pending? = some p) : s.grantCommits accepting = true := by
  rw [State.grantCommits, hn]
  simp only [hone, hp, Option.isSome_some, decide_true, Bool.and_self]

/-- Settles O32: the delivery leaves nothing undelivered, so the pending binding is due in the same step. -/
theorem stagedCommitMakesPendingCurrent : Obligations.StagedCommitMakesPendingCurrent := by
  unfold Obligations.StagedCommitMakesPendingCurrent
  intro s accepting n τ rest p seq code hr hn hlist hone hrebind hslot
  have hp : s.contexts[n].rebind.pending? = some p := by rcases hrebind with h | h <;> rw [h] <;> rfl
  rw [exec_stagedCommit hr (grantCommits_of_pending hn hone hp), exec_delivery accepting hr]
  refine ⟨?_, rfl⟩
  have hcount : s.contexts[n].undelivered - 1 = 0 := by rw [hone]
  rw [deliverOne_grants hn hlist, deliverHead_commit τ hone hp, State.commit, handUp_of_list hlist, hcount]
  have hfill := fill_reserved .done [] hslot
  simp only [State.updContext, State.fillAll, List.foldl, hfill]
  rw [updAt_eq_set _ _ _ rfl]
  simp

end Sys2Proof.Machine

/-! SUPPORT. The commands on windows and on defaults: their check orders against the tables of sections 3.6, 6.2, 6.3
and 7.2, and what a DERIVE and a SHRINK that pass make of the table. -/

namespace Sys2Proof.Machine

/- One proof after another: a thread for each at once is more than a machine holds. -/
set_option Elab.async false

/-! ### Tests that fail -/

theorem eq_false_of_iff {b : Bool} {p : Prop} (h : b = true ↔ p) (hp : ¬p) : b = false :=
  Bool.not_eq_true b ▸ fun hb => hp (h.mp hb)

theorem defaultsAllow_iff (s : State) (h : Handle) (w : Window) (a : ShrinkArgs) :
    defaultsAllow s.contexts h w a = true ↔ s.defaultsStillHeld h w a := by
  have hnames (n : Initiator) : s.contexts[n].namesDefault h = false ↔ s.contexts[n].current ≠ some h ∧
      ∀ p, s.contexts[n].rebind.pending? = some p → p.target ≠ some h := by
    unfold Context.namesDefault
    cases s.contexts[n].rebind.pending? <;> simp
  unfold defaultsAllow State.defaultsStillHeld
  simp only [List.all_eq_true, List.mem_finRange, true_imp_iff, Bool.not_eq_true', Bool.and_eq_false_iff,
    Bool.not_eq_false', ← hnames]
  refine forall_congr' fun n => ?_
  cases w.holders.getLsbD n.val <;> cases a.holders.getLsbD n.val <;> simp

theorem mapWindow_of_live {v : WindowSlot} {w : Window} (f : Window → Window) (h : v.occ = .live w) :
    v.mapWindow f = ⟨v.gen, .live (f w)⟩ := by
  rw [WindowSlot.mapWindow, h]

/-! ### DERIVE (R120 to R125) -/

theorem deriveChecks_stale {s : State} {a : DeriveArgs} (h : s.staleArg a.parent) :
    deriveChecks s a = .error .staleHandle := by
  unfold deriveChecks
  cases hp : a.parent with
  | none => rfl
  | some g =>
    dsimp only
    rw [not_validHandle_of_stale (h g hp)]
    rfl

theorem deriveChecks_revoking {s : State} {a : DeriveArgs} {g : Handle} (hp : a.parent = some g)
    (h : s.namesRevoking g) : deriveChecks s a = .error .windowRevoking := by
  obtain ⟨-, w, c, hocc⟩ := id h
  simp only [deriveChecks, hp, validHandle_of_revoking h, hocc, Bool.not_true, Bool.false_eq_true, if_false]

theorem deriveChecks_live {s : State} {a : DeriveArgs} {g : Handle} {w : Window} (hp : a.parent = some g)
    (h : s.namesLive g w) : deriveChecks s a = (deriveFrom s g.index w a).map fun i => ⟨i, g.index, w⟩ := by
  simp only [deriveChecks, hp, validHandle_of_live h, h.2, Bool.not_true, Bool.false_eq_true, if_false]
  cases deriveFrom s g.index w a <;> rfl

/-- Past check 7 the depth, the relocation and the room decide. -/
theorem deriveFrom_sound {s : State} {a : DeriveArgs} {g : Handle} {w : Window} (h : DeriveSound s a g w)
    (parent : SlotIx) :
    deriveFrom s parent w a =
      if 5 ≤ w.depth then .error .tooDeep
      else if relocOk parent a.base a.limit a.reloc = false then .error .badRelocation
      else (s.lowestFreeSlot.map Except.ok).getD (.error .tableFull) := by
  have hwithin : ¬(a.base < w.base ∨ w.limit < a.limit) := by have := h.within; omega
  unfold deriveFrom
  rw [h.derive, (boundsOk_iff _ _).mpr h.bounds, if_neg hwithin, (perms_subset_iff _ _).mpr h.perms,
    (subsetBits_holders_iff _ _).mpr h.holders]
  simp only [Bool.not_true, Bool.false_eq_true, if_false, Bool.not_eq_true']
  cases s.lowestFreeSlot <;> rfl

theorem lowestFreeSlot_of_tableFull {s : State} (h : s.tableFull) : s.lowestFreeSlot = none :=
  lowestFreeSlot_none.mpr fun i hi => eq_false_of_iff isFree_iff (h i hi)

/-- The checks of DERIVE answer by the table of section 6.2. -/
theorem deriveChecks_fails {s : State} {a : DeriveArgs} {o : CmdOutcome} (h : DeriveFails s a o) :
    deriveChecks s a = .error o := by
  cases h with
  | staleHandle h => exact deriveChecks_stale h
  | windowRevoking g hp hr => exact deriveChecks_revoking hp hr
  | noDerive g w hp hl hd =>
    rw [deriveChecks_live hp hl, deriveFrom, hd]
    rfl
  | badBounds g w hp hl hd hb =>
    rw [deriveChecks_live hp hl, deriveFrom, hd, eq_false_of_iff (boundsOk_iff _ _) hb]
    rfl
  | outOfParent g w hp hl hd hb hw =>
    have hout : a.base < w.base ∨ w.limit < a.limit := by omega
    rw [deriveChecks_live hp hl, deriveFrom, hd, (boundsOk_iff _ _).mpr hb, if_pos hout]
    rfl
  | permNotSubset g w hp hl hd hb hw hperms =>
    have hin : ¬(a.base < w.base ∨ w.limit < a.limit) := by omega
    rw [deriveChecks_live hp hl, deriveFrom, hd, (boundsOk_iff _ _).mpr hb, if_neg hin,
      eq_false_of_iff (perms_subset_iff _ _) hperms]
    rfl
  | holdersNotSubset g w hp hl hd hb hw hperms hholders =>
    have hin : ¬(a.base < w.base ∨ w.limit < a.limit) := by omega
    rw [deriveChecks_live hp hl, deriveFrom, hd, (boundsOk_iff _ _).mpr hb, if_neg hin,
      (perms_subset_iff _ _).mpr hperms, eq_false_of_iff (subsetBits_holders_iff _ _) hholders]
    rfl
  | tooDeep g w hs hdepth =>
    rw [deriveChecks_live hs.parent hs.live, deriveFrom_sound hs, if_pos hdepth]
    rfl
  | badRelocation g w hs hdepth hreloc =>
    rw [deriveChecks_live hs.parent hs.live, deriveFrom_sound hs, if_neg (by omega),
      if_pos (eq_false_of_iff (relocOk_iff _ _ _ _) hreloc)]
    rfl
  | tableFull g w hs hdepth hreloc hfull =>
    rw [deriveChecks_live hs.parent hs.live, deriveFrom_sound hs, if_neg (by omega),
      if_neg (by rw [(relocOk_iff _ _ _ _).mpr hreloc]; simp), lowestFreeSlot_of_tableFull hfull]
    rfl

/-- The checks look at neither the queue nor the response slots. -/
theorem deriveChecks_deferred (s : State) (f : Frame) (rest : List Frame) (k : RespIx) (a : DeriveArgs) :
    deriveChecks (s.deferred f rest k) a = deriveChecks s a :=
  rfl

theorem deriveChecks_passes {s : State} {a : DeriveArgs} {g : Handle} {w : Window} {i : SlotIx}
    (hs : DeriveSound s a g w) (hdepth : w.depth < 5) (hreloc : goodReloc g.index a.base a.limit a.reloc)
    (hi : s.lowestFreeSlot = some i) : deriveChecks s a = .ok ⟨i, g.index, w⟩ := by
  rw [deriveChecks_live hs.parent hs.live, deriveFrom_sound hs, if_neg (by omega),
    if_neg (by rw [(relocOk_iff _ _ _ _).mpr hreloc]; simp), hi]
  rfl

theorem allocate_eq {s : State} {i parent : SlotIx} {w : Window} (a : DeriveArgs)
    (hlive : s.windows[parent].occ = .live w)
    (hfree : s.windows[i].occ = .free) :
    s.allocate ⟨i, parent, w⟩ a =
      { s with
        windows := (s.windows.set parent
          ⟨s.windows[parent].gen, .live { w with children := w.children ||| slotBit i }⟩).set i
            ⟨s.windows[i].gen, .live (derivedWindow parent w a)⟩ } := by
  have hne : i ≠ parent := by
    rintro rfl
    rw [hfree] at hlive
    cases hlive
  have hparent : s.windows[parent].mapWindow (fun w => { w with children := w.children ||| slotBit i }) =
      ⟨s.windows[parent].gen, .live { w with children := w.children ||| slotBit i }⟩ := mapWindow_of_live _ hlive
  unfold State.allocate
  dsimp only
  rw [updAt_eq_set _ i _ (a := ⟨s.windows[i].gen, .live (derivedWindow parent w a)⟩)
    (by rw [updAt_other _ _ _ _ hne]), updAt_eq_set _ parent _ hparent]

/-- Settles O44: the checks pass with the lowest FREE slot, which is not the parent's. -/
theorem deriveAllocatesLowestFreeSlot : Obligations.DeriveAllocatesLowestFreeSlot := by
  unfold Obligations.DeriveAllocatesLowestFreeSlot
  intro s f rest k a h w i ht hc ha hs hdepth hreloc hi hfree hlower
  have hlowest : s.lowestFreeSlot = some i := lowestFreeSlot_some.mpr
    ⟨⟨hi, isFree_iff.mpr hfree⟩, fun j hj h0 => eq_false_of_iff isFree_iff (hlower j h0 hj)⟩
  rw [show exec .derive s = _ from exec_takes ht hc]
  refine congrArg _ ?_
  rw [show tableBody .derive k f.payload = deriveBody k f.payload from rfl, deriveBody, ha]
  dsimp only
  rw [deriveChecks_deferred, deriveChecks_passes hs hdepth hreloc hlowest]
  dsimp only
  rw [allocate_eq (s := s.deferred f rest k) a hs.live.2 hfree]
  rw [← answer_deferred s f rest k, ← hs.live.1]
  rfl

/-! ### SHRINK (R127 to R131) -/

theorem shrinkChecks_live {s : State} {a : ShrinkArgs} {g : Handle} {w : Window} (hp : a.handle = some g)
    (h0 : g.index ≠ 0) (h : s.namesLive g w) :
    shrinkChecks s a = ((shrinkFails s g w a).map Except.error).getD (.ok g.index) := by
  simp only [shrinkChecks, hp, validHandle_of_live h, h.2, Bool.not_true, Bool.false_eq_true, if_false, if_neg h0]
  cases shrinkFails s g w a <;> rfl

/-- The checks of SHRINK answer by the table of section 6.3. -/
theorem shrinkChecks_fails {s : State} {a : ShrinkArgs} {o : CmdOutcome} (h : ShrinkFails s a o) :
    shrinkChecks s a = .error o := by
  cases h with
  | staleHandle h =>
    unfold shrinkChecks
    cases hp : a.handle with
    | none => rfl
    | some g =>
      dsimp only
      rw [not_validHandle_of_stale (h g hp)]
      rfl
  | rootProtected g hp hs h0 =>
    have hvalid : s.validHandle g = true := by
      rcases handle_cases s g with h | ⟨w, h⟩ | h
      · exact absurd h hs
      · exact validHandle_of_live h
      · exact validHandle_of_revoking h
    simp [shrinkChecks, hp, hvalid, h0]
  | windowRevoking g hp h0 h =>
    obtain ⟨-, w, c, hocc⟩ := id h
    simp only [shrinkChecks, hp, validHandle_of_revoking h, hocc, h0, Bool.not_true, Bool.false_eq_true, if_false]
  | badBounds g w hp h0 hl hb =>
    rw [shrinkChecks_live hp h0 hl, shrinkFails, eq_false_of_iff (boundsOk_iff _ _) hb]
    rfl
  | notNarrower g w hp h0 hl hb hn =>
    rw [shrinkChecks_live hp h0 hl, shrinkFails, (boundsOk_iff _ _).mpr hb, eq_false_of_iff (isNarrower_iff _ _) hn]
    rfl
  | childConflict g w hp h0 hl hb hn hchild =>
    rw [shrinkChecks_live hp h0 hl, shrinkFails, (boundsOk_iff _ _).mpr hb, (isNarrower_iff _ _).mpr hn,
      eq_false_of_iff (childrenFit_iff _ _ _) hchild]
    rfl
  | defaultConflict g w hp h0 hl hb hn hchild hdefault =>
    rw [shrinkChecks_live hp h0 hl, shrinkFails, (boundsOk_iff _ _).mpr hb, (isNarrower_iff _ _).mpr hn,
      (childrenFit_iff _ _ _).mpr hchild, eq_false_of_iff (defaultsAllow_iff _ _ _ _) hdefault]
    rfl

theorem shrinkChecks_deferred (s : State) (f : Frame) (rest : List Frame) (k : RespIx) (a : ShrinkArgs) :
    shrinkChecks (s.deferred f rest k) a = shrinkChecks s a :=
  rfl

theorem shrinkChecks_passes {s : State} {a : ShrinkArgs} {g : Handle} {w : Window} (hp : a.handle = some g)
    (h0 : g.index ≠ 0) (hl : s.namesLive g w) (hb : goodBounds a.base a.limit) (hn : a.narrows w)
    (hchild : s.childrenStillFit w a) (hdefault : s.defaultsStillHeld g w a) :
    shrinkChecks s a = .ok g.index := by
  rw [shrinkChecks_live hp h0 hl, shrinkFails, (boundsOk_iff _ _).mpr hb, (isNarrower_iff _ _).mpr hn,
    (childrenFit_iff _ _ _).mpr hchild, (defaultsAllow_iff _ _ _ _).mpr hdefault]
  rfl

theorem narrowWindow_eq {s : State} {ix : SlotIx} {w : Window} (a : ShrinkArgs) (hlive : s.windows[ix].occ = .live w) :
    s.narrowWindow ix a = { s with windows := s.windows.set ix ⟨s.windows[ix].gen, .live (narrow a w)⟩ } := by
  rw [State.narrowWindow, updAt_eq_set _ ix _ (mapWindow_of_live _ hlive)]

/-- Settles O46. -/
theorem shrinkNarrowsOneWindow : Obligations.ShrinkNarrowsOneWindow := by
  unfold Obligations.ShrinkNarrowsOneWindow
  intro s f rest k a h w ht hc ha hp h0 hl hb hn hchild hdefault
  rw [show exec .shrink s = _ from exec_takes ht hc]
  refine congrArg _ ?_
  rw [show tableBody .shrink k f.payload = shrinkBody k f.payload from rfl, shrinkBody, ha]
  dsimp only
  rw [shrinkChecks_deferred, shrinkChecks_passes hp h0 hl hb hn hchild hdefault]
  dsimp only
  rw [narrowWindow_eq (s := s.deferred f rest k) a hl.2, ← answer_deferred s f rest k, ← hl.1]
  rfl

/-! ### REVOKE and BIND_DEFAULT that fail (R62, R138) -/

/-- The checks of REVOKE answer by the table of section 7.2. -/
theorem revokeChecks_fails {s : State} {arg : Option Handle} {o : CmdOutcome} (h : RevokeFails s arg o) :
    revokeChecks s arg = .error o := by
  cases h with
  | staleHandle h =>
    unfold revokeChecks
    cases hp : arg with
    | none => rfl
    | some g =>
      dsimp only
      rw [not_validHandle_of_stale (h g hp)]
      rfl
  | rootProtected g hp hs h0 =>
    have hvalid : s.validHandle g = true := by
      rcases handle_cases s g with h | ⟨w, h⟩ | h
      · exact absurd h hs
      · exact validHandle_of_live h
      · exact validHandle_of_revoking h
    simp [revokeChecks, hp, hvalid, h0]
  | alreadyRevoking g hp h0 h =>
    obtain ⟨-, w, c, hocc⟩ := id h
    simp only [revokeChecks, hp, validHandle_of_revoking h, isRevoking_iff.mpr ⟨w, c, hocc⟩, h0, Bool.not_true,
      Bool.false_eq_true, if_false, if_true]
  | queueFull g w hp h0 hl hroom =>
    have hrevoking : s.windows[g.index].isRevoking = false := by rw [WindowSlot.isRevoking, hl.2]
    have hfull : s.revocationRoom g.index = false :=
      decide_eq_false (Nat.not_le.mpr hroom)
    simp only [revokeChecks, hp, validHandle_of_live hl, hrevoking, h0, hfull, Bool.not_true, Bool.not_false,
      Bool.false_eq_true, if_false, if_true]

theorem revokeChecks_deferred (s : State) (f : Frame) (rest : List Frame) (k : RespIx) (arg : Option Handle) :
    revokeChecks (s.deferred f rest k) arg = revokeChecks s arg :=
  rfl

/-- The checks of BIND_DEFAULT answer by the table of section 3.6. -/
theorem bindChecks_fails {s : State} {n : Initiator} {b : Binding} {o : CmdOutcome} (h : BindFails s n b o) :
    bindChecks s n b = .error o := by
  cases h with
  | staleHandle arg h =>
    cases arg with
    | none => rfl
    | some g =>
      unfold bindChecks
      dsimp only
      rw [not_validHandle_of_stale (h g rfl)]
      rfl
  | windowRevoking g h =>
    obtain ⟨-, w, c, hocc⟩ := id h
    simp only [bindChecks, validHandle_of_revoking h, hocc, Bool.not_true, Bool.false_eq_true, if_false]
  | notHolder g w hl hholder =>
    simp only [bindChecks, validHandle_of_live hl, hl.2, hholder, Bool.not_true, Bool.false_eq_true, if_false]

/-- Settles O45: an execution whose checks fail is an answer, and the checks look at neither the queue nor the slots. -/
theorem refusedCommandsOnlyAnswer : Obligations.RefusedCommandsOnlyAnswer := by
  unfold Obligations.RefusedCommandsOnlyAnswer
  intro s f rest k o ht
  refine ⟨fun hc h => ?_, fun hc h => ?_, fun hc h => ?_, fun hc h => ?_⟩
  · rw [show exec .derive s = .next (deriveBody k f.payload (s.deferred f rest k)) from exec_takes ht hc,
      ← answer_deferred, deriveBody]
    rcases h with ⟨ha, rfl⟩ | ⟨a, ha, h⟩ <;> rw [ha]
    dsimp only
    rw [deriveChecks_deferred, deriveChecks_fails h]
  · rw [show exec .shrink s = .next (shrinkBody k f.payload (s.deferred f rest k)) from exec_takes ht hc,
      ← answer_deferred, shrinkBody]
    rcases h with ⟨ha, rfl⟩ | ⟨a, ha, h⟩ <;> rw [ha]
    dsimp only
    rw [shrinkChecks_deferred, shrinkChecks_fails h]
  · rw [show exec .revoke s = .next (revokeBody k f.payload (s.deferred f rest k)) from exec_takes ht hc,
      ← answer_deferred, revokeBody, revokeChecks_deferred, revokeChecks_fails h]
  · rw [show exec .bindDefault s = .next (bindDefaultBody k f.payload (s.deferred f rest k)) from exec_takes ht hc,
      ← answer_deferred, bindDefaultBody]
    rcases h with ⟨hn, rfl⟩ | ⟨n, hn, h⟩ <;> rw [hn]
    dsimp only
    rw [bindChecks_deferred, bindChecks_fails h]

end Sys2Proof.Machine

/-! SUPPORT. The bytes of the frames: fields of several bytes, flags, handles and sets, written and read back (R185,
R189, sections 11.2, 11.5 and 11.6). -/

namespace Sys2Proof.Machine

/- One proof after another: a thread for each at once is more than a machine holds. -/
set_option Elab.async false

/-! ### Fields (R185) -/

@[simp] theorem fieldAt_zero (p : List Byte) (i : Nat) : fieldAt p i 0 = 0 :=
  rfl

theorem fieldAt_succ (p : List Byte) (i n : Nat) :
    fieldAt p i (n + 1) = 256 * fieldAt p i n + (byteAt p (i + n)).toNat := by
  rw [fieldAt, List.range_succ, List.foldl_append, List.foldl_cons, List.foldl_nil, ← fieldAt, Nat.mul_comm]

theorem fieldAt_lt (p : List Byte) (i n : Nat) : fieldAt p i n < 256 ^ n := by
  induction n with
  | zero => rw [fieldAt_zero, pow_zero]; omega
  | succ n ih =>
    rw [fieldAt_succ, pow_succ]
    have := (byteAt p (i + n)).isLt
    omega

/-- Bytes that are a number's digits to base 256 are read back as that number, as far as they reach. -/
theorem fieldAt_of_digits {p : List Byte} {i n v : Nat}
    (h : ∀ k < n, byteAt p (i + k) = BitVec.ofNat 8 (v / 256 ^ (n - 1 - k))) : fieldAt p i n = v % 256 ^ n := by
  induction n generalizing v with
  | zero => rw [fieldAt_zero, pow_zero, Nat.mod_one]
  | succ n ih =>
    have hhigh : fieldAt p i n = v / 256 % 256 ^ n := ih fun k hk => by
      rw [h k (by omega), Nat.div_div_eq_div_mul, ← pow_succ', show n + 1 - 1 - k = n - 1 - k + 1 by omega]
    rw [fieldAt_succ, hhigh, h n (by omega), show n + 1 - 1 - n = 0 by omega, pow_zero, Nat.div_one, BitVec.toNat_ofNat,
      show (2 : Nat) ^ 8 = 256 from rfl, pow_succ', Nat.mod_mul, Nat.add_comm]

/-- A field in its place is read back. -/
theorem fieldAt_of_slice {p : List Byte} {i n v : Nat} (h : (p.drop i).take n = fieldBytes n v) (hv : v < 256 ^ n) :
    fieldAt p i n = v := by
  rw [fieldAt_of_digits (v := v) fun k hk => ?_, Nat.mod_eq_of_lt hv]
  have hbyte : ((p.drop i).take n).getD k 0#8 = byteAt p (i + k) := by
    rw [List.getD_eq_getElem?_getD, List.getElem?_take_of_lt hk, List.getElem?_drop, byteAt,
      List.getD_eq_getElem?_getD]
  rw [← hbyte, h, fieldBytes, List.getD_eq_getElem?_getD, List.getElem?_map, List.getElem?_range hk]
  rfl

theorem signed48At_eq (p : List Byte) (i : Nat) :
    signed48At p i = (if fieldAt p i 6 < 140737488355328 then (fieldAt p i 6 : Int)
      else (fieldAt p i 6 : Int) - 281474976710656) := by
  have := fieldAt_lt p i 6
  rw [signed48At, BitVec.toInt_eq_toNat_cond, BitVec.toNat_ofNat, Nat.mod_eq_of_lt (by omega)]
  split <;> split <;> omega

theorem signed48At_of_slice {p : List Byte} {i : Nat} {v : Int} (h : (p.drop i).take 6 = signed48Bytes v)
    (hlo : -140737488355328 ≤ v) (hhi : v < 140737488355328) : signed48At p i = v := by
  have hfield : fieldAt p i 6 = (BitVec.ofInt 48 v).toNat :=
    fieldAt_of_slice h (by have := (BitVec.ofInt 48 v).isLt; omega)
  rw [signed48At_eq, hfield, BitVec.toNat_ofInt]
  split <;> omega

theorem fieldAt_eq_zero {p : List Byte} {i n : Nat} (h : (p.drop i).take n = fieldBytes n 0) : fieldAt p i n = 0 :=
  fieldAt_of_slice h (Nat.pow_pos (by omega))

theorem toNat_ofNat_byte {k : Nat} (h : k < 256) : (BitVec.ofNat 8 k).toNat = k := by
  rw [BitVec.toNat_ofNat, Nat.mod_eq_of_lt h]

/-! ### Handles and numbers of slots and initiators -/

theorem handleAt_iff {p : List Byte} {i : Nat} {h : Handle} :
    handleAt p i = some h ↔ (byteAt p i).toNat = h.index.val ∧ byteAt p (i + 1) = h.gen := by
  have := h.index.isLt
  unfold handleAt
  split
  next hlt =>
    rw [Option.some.injEq]
    constructor
    · rintro rfl
      exact ⟨rfl, rfl⟩
    · rintro ⟨hindex, hgen⟩
      cases h
      exact congrArg₂ Handle.mk (Fin.ext hindex) hgen
  next => exact ⟨nofun, fun ⟨hindex, _⟩ => by omega⟩

theorem slotIxAt_iff {p : List Byte} {i : Nat} {j : SlotIx} : slotIxAt p i = some j ↔ (byteAt p i).toNat = j.val := by
  have := j.isLt
  unfold slotIxAt
  split
  · rw [Option.some.injEq, Fin.ext_iff]
  · exact ⟨nofun, fun h => by omega⟩

theorem initiatorAt_iff {p : List Byte} {i : Nat} {n : Initiator} :
    initiatorAt p i = some n ↔ (byteAt p i).toNat = n.val := by
  have := n.isLt
  unfold initiatorAt
  split
  · rw [Option.some.injEq, Fin.ext_iff]
  · exact ⟨nofun, fun h => by omega⟩

theorem slotIxAt_none {p : List Byte} {i : Nat} (h : 64 ≤ (byteAt p i).toNat) : slotIxAt p i = none :=
  dif_neg (by omega)

theorem handleAt_none {p : List Byte} {i : Nat} (h : 64 ≤ (byteAt p i).toNat) : handleAt p i = none :=
  dif_neg (by omega)

theorem initiatorAt_none {p : List Byte} {i : Nat} (h : 8 ≤ (byteAt p i).toNat) : initiatorAt p i = none :=
  dif_neg (by omega)

theorem slotIxAt_of_byte {p : List Byte} {i : Nat} {j : SlotIx} (h : byteAt p i = BitVec.ofNat 8 j.val) :
    slotIxAt p i = some j :=
  slotIxAt_iff.mpr (by rw [h, toNat_ofNat_byte (by omega)])

theorem initiatorAt_of_byte {p : List Byte} {i : Nat} {n : Initiator} (h : byteAt p i = BitVec.ofNat 8 n.val) :
    initiatorAt p i = some n :=
  initiatorAt_iff.mpr (by rw [h, toNat_ofNat_byte (by omega)])

theorem handleAt_of_bytes {p : List Byte} {i : Nat} {h : Handle} (hindex : byteAt p i = BitVec.ofNat 8 h.index.val)
    (hgen : byteAt p (i + 1) = h.gen) : handleAt p i = some h :=
  handleAt_iff.mpr ⟨by rw [hindex, toNat_ofNat_byte (by omega)], hgen⟩

/-! ### Flags and sets -/

/-- Bit `k` of a byte of flags is the flag there, and zero past the flags given. -/
theorem getLsbD_bitsByte (flags : List Bool) {k : Nat} (hk : k < 8) :
    (bitsByte flags).getLsbD k = flags.getD k false := by
  have htest : ∀ (flags : List Bool) (k : Nat),
      (flags.foldr (fun (b : Bool) acc => b.toNat + 2 * acc) 0).testBit k = flags.getD k false := by
    intro flags
    induction flags with
    | nil => simp
    | cons b flags ih =>
      intro k
      rw [List.foldr_cons]
      cases k with
      | zero => cases b <;> simp [Nat.testBit_zero]
      | succ k =>
        rw [Nat.testBit_succ, List.getD_cons_succ, ← ih k]
        congr 1
        have := b.toNat_lt
        omega
  rw [bitsByte, BitVec.getLsbD_ofNat, htest, decide_eq_true hk, Bool.true_and]

theorem toNat_bitsByte_lt (flags : List Bool) : (bitsByte flags).toNat < 2 ^ flags.length := by
  have hfold : flags.foldr (fun (b : Bool) acc => b.toNat + 2 * acc) 0 < 2 ^ flags.length := by
    induction flags with
    | nil => simp
    | cons b flags ih =>
      rw [List.foldr_cons, List.length_cons, pow_succ]
      have := b.toNat_le
      omega
  rw [bitsByte, BitVec.toNat_ofNat]
  exact lt_of_le_of_lt (Nat.mod_le _ _) hfold

theorem flagOf_bitsByte (b : Bool) : flagOf (bitsByte [b]) = some b := by
  cases b <;> rfl

theorem permsOf_toByte (p : Perms) : permsOf p.toByte = some p := by
  obtain ⟨r, w, d⟩ := p
  revert r w d
  decide

theorem flagOf_none {b : Byte} : flagOf b = none ↔ 1 < b.toNat := by
  unfold flagOf
  split_ifs with h0 h1
  · simp [h0]
  · simp [h1]
  · refine iff_of_true rfl ?_
    bv_omega

theorem flagOf_some {b : Byte} {v : Bool} (h : flagOf b = some v) : v = !decide (b = 0#8) := by
  unfold flagOf at h
  split_ifs at h with h0 h1 <;> cases h
  · simp [h0]
  · simp [h0]

theorem permsOf_none {b : Byte} : permsOf b = none ↔ ∃ k, 3 ≤ k ∧ k ≤ 7 ∧ b.getLsbD k = true := by
  have hmask : ∀ k < 8, (0xF8#8).getLsbD k = decide (3 ≤ k) := by decide
  unfold permsOf
  split_ifs with h
  · refine iff_of_false nofun fun ⟨k, hlo, hhi, hbit⟩ => ?_
    have hk := congrArg (·.getLsbD k) h
    rw [BitVec.getLsbD_and, hmask k (by omega), hbit, decide_eq_true hlo, BitVec.getLsbD_zero] at hk
    cases hk
  · refine iff_of_true rfl ?_
    by_contra hnone
    refine h (BitVec.eq_of_getLsbD_eq fun k hk => ?_)
    rw [BitVec.getLsbD_and, hmask k hk, BitVec.getLsbD_zero, Bool.and_eq_false_iff, decide_eq_false_iff_not,
      or_iff_not_imp_right, not_not]
    exact fun hlo => Bool.eq_false_iff.mpr fun hbit => hnone ⟨k, hlo, by omega, hbit⟩

theorem permsOf_some {b : Byte} {p : Perms} (h : permsOf b = some p) :
    p = ⟨b.getLsbD 0, b.getLsbD 1, b.getLsbD 2⟩ := by
  unfold permsOf at h
  split_ifs at h
  cases h
  rfl

/-! ### The arguments of the commands (R119, R189) -/

theorem deriveArgs_none {p : List Byte} :
    deriveArgs p = none ↔ permsOf (byteAt p 14) = none ∨ flagOf (byteAt p 16) = none := by
  unfold deriveArgs
  cases permsOf (byteAt p 14) <;> cases flagOf (byteAt p 16) <;> simp

theorem shrinkArgs_none {p : List Byte} : shrinkArgs p = none ↔ permsOf (byteAt p 14) = none := by
  unfold shrinkArgs
  cases permsOf (byteAt p 14) <;> simp

theorem deriveArgs_some {p : List Byte} {a : DeriveArgs} (h : deriveArgs p = some a) :
    a = ⟨handleAt p 0, fieldAt p 2 6, fieldAt p 8 6,
      ⟨(byteAt p 14).getLsbD 0, (byteAt p 14).getLsbD 1, (byteAt p 14).getLsbD 2⟩, byteAt p 15,
      if byteAt p 16 = 0#8 then none else some (signed48At p 17)⟩ := by
  unfold deriveArgs at h
  split at h
  next perms present hperms hpresent =>
    cases h
    rw [permsOf_some hperms, flagOf_some hpresent]
    by_cases h0 : byteAt p 16 = 0#8 <;> simp [h0]
  next => cases h

theorem shrinkArgs_some {p : List Byte} {a : ShrinkArgs} (h : shrinkArgs p = some a) :
    a = ⟨handleAt p 0, fieldAt p 2 6, fieldAt p 8 6,
      ⟨(byteAt p 14).getLsbD 0, (byteAt p 14).getLsbD 1, (byteAt p 14).getLsbD 2⟩, byteAt p 15⟩ := by
  unfold shrinkArgs at h
  split at h
  next perms hperms =>
    cases h
    rw [permsOf_some hperms]
  next => cases h

theorem shrinkArgs_encodeShrink {h : Handle} {base limit : Nat} (perms : Perms) (holders : BitVec 8)
    (hbase : base < 281474976710656) (hlimit : limit < 281474976710656) :
    shrinkArgs (encodeShrink h base limit perms holders) = some ⟨some h, base, limit, perms, holders⟩ := by
  have hperms : permsOf (byteAt (encodeShrink h base limit perms holders) 14) = some perms := permsOf_toByte perms
  have hhandle : handleAt (encodeShrink h base limit perms holders) 0 = some h := handleAt_of_bytes rfl rfl
  have hb : fieldAt (encodeShrink h base limit perms holders) 2 6 = base := fieldAt_of_slice rfl hbase
  have hl : fieldAt (encodeShrink h base limit perms holders) 8 6 = limit := fieldAt_of_slice rfl hlimit
  rw [shrinkArgs, hperms]
  dsimp only
  rw [hhandle, hb, hl]
  rfl

theorem deriveArgs_encodeDerive {h : Handle} {base limit : Nat} (perms : Perms) (holders : BitVec 8)
    {reloc : Option Int} (hbase : base < 281474976710656) (hlimit : limit < 281474976710656)
    (hreloc : ∀ v, reloc = some v → -140737488355328 ≤ v ∧ v < 140737488355328) :
    deriveArgs (encodeDerive h base limit perms holders reloc) = some ⟨some h, base, limit, perms, holders, reloc⟩ := by
  have hperms : permsOf (byteAt (encodeDerive h base limit perms holders reloc) 14) = some perms := permsOf_toByte perms
  have hhandle : handleAt (encodeDerive h base limit perms holders reloc) 0 = some h := handleAt_of_bytes rfl rfl
  have hb : fieldAt (encodeDerive h base limit perms holders reloc) 2 6 = base := fieldAt_of_slice rfl hbase
  have hl : fieldAt (encodeDerive h base limit perms holders reloc) 8 6 = limit := fieldAt_of_slice rfl hlimit
  have hflag : flagOf (byteAt (encodeDerive h base limit perms holders reloc) 16) = some reloc.isSome := by
    cases reloc <;> rfl
  have hv : (if reloc.isSome then some (signed48At (encodeDerive h base limit perms holders reloc) 17) else none) =
      reloc := by
    cases reloc with
    | none => rfl
    | some v => exact congrArg some (signed48At_of_slice rfl (hreloc v rfl).1 (hreloc v rfl).2)
  rw [deriveArgs, hperms, hflag]
  dsimp only
  rw [hhandle, hb, hl, hv]
  rfl

theorem settingsOf_report {c : Settings} (h1 : 1 ≤ c.prescale) (h1024 : c.prescale ≤ 1024)
    (hdrain : c.drainDeadline < 65536) (hresponse : c.responseTimeout < 65536) (hstall : c.stallNotice < 65536) :
    settingsOf c.report = some c := by
  have hprescale : fieldAt c.report 0 2 = c.prescale := fieldAt_of_slice rfl (by omega)
  have hd : fieldAt c.report 2 2 = c.drainDeadline := fieldAt_of_slice rfl hdrain
  have hr : fieldAt c.report 4 2 = c.responseTimeout := fieldAt_of_slice rfl hresponse
  have hs : fieldAt c.report 6 2 = c.stallNotice := fieldAt_of_slice rfl hstall
  have hev : flagOf (byteAt c.report 8) = some c.alertOnEvents := flagOf_bitsByte c.alertOnEvents
  have hrs : flagOf (byteAt c.report 9) = some c.alertOnResponses := flagOf_bitsByte c.alertOnResponses
  rw [settingsOf, hev, hrs]
  dsimp only
  rw [hprescale, if_pos ⟨h1, h1024⟩, hd, hr, hs]

theorem byteAt_of_lt {p : List Byte} {i : Nat} (h : i < p.length) : p[i]? = some (byteAt p i) := by
  rw [byteAt, List.getD_eq_getElem?_getD, List.getElem?_eq_getElem h, Option.getD_some]

/-- Settles O42. -/
theorem commandPayloadsDecodeToWhatWasEncoded : Obligations.CommandPayloadsDecodeToWhatWasEncoded := by
  unfold Obligations.CommandPayloadsDecodeToWhatWasEncoded
  refine ⟨fun p i => ⟨byteAt_of_lt, fieldAt_zero p i, fieldAt_succ p i, signed48At_eq p i, fun _ => handleAt_iff,
      fun h => ⟨handleAt_none h, slotIxAt_none h⟩, fun _ => slotIxAt_iff, fun _ => initiatorAt_iff, initiatorAt_none⟩,
    fun p => ⟨fun h => if_pos h, fun h => if_neg h, ?_, ?_, fun _ => deriveArgs_some, fun _ => shrinkArgs_some⟩,
    fun h base limit perms holders reloc hbase hlimit hreloc =>
      ⟨deriveArgs_encodeDerive perms holders hbase hlimit hreloc, by cases reloc <;> rfl,
        shrinkArgs_encodeShrink perms holders hbase hlimit, rfl⟩,
    fun c h1 h1024 hdrain hresponse hstall => ⟨settingsOf_report h1 h1024 hdrain hresponse hstall, rfl⟩⟩
  · rw [deriveArgs_none, permsOf_none, flagOf_none]
  · rw [shrinkArgs_none, permsOf_none]

end Sys2Proof.Machine

/-! SUPPORT. The read-back payloads: where sections 11.5 and 11.6 put each field (R136, R189, R190). -/

namespace Sys2Proof.Machine

/- One proof after another: a thread for each at once is more than a machine holds. -/
set_option Elab.async false

theorem toNat_optByte {o : Option Nat} {k : Nat} (ho : o = some k) (hk : k < 256) : (optByte o).toNat = k := by
  rw [optByte, ho, Option.getD_some, toNat_ofNat_byte hk]

/-! ### READ_WINDOW -/

/-- A window's record as READ_WINDOW sends it, in a LIVE or a REVOKING slot. -/
def windowPayload (state gen : Byte) (revoking : Bool) (w : Window) (cover : Byte) : List Byte :=
  [state, gen, bitsByte [w.parent.isSome, true, w.reloc.isSome, revoking]] ++ windowFields w ++ [cover]

theorem report_of_window (g : Byte) (w : Window) (c : SlotIx) (revoking : Bool) :
    WindowSlot.report ⟨g, if revoking then .revoking w c else .live w⟩ =
      windowPayload (if revoking then 2#8 else 1#8) g revoking w (if revoking then BitVec.ofNat 8 c.val else 0#8) := by
  cases revoking <;> rfl

section WindowPayload

variable (a g z : Byte) (revoking : Bool) {w : Window}

theorem length_windowPayload : (windowPayload a g revoking w z).length = 42 :=
  rfl

theorem windowPayload_flag {k : Nat} (hk : k < 8) : (byteAt (windowPayload a g revoking w z) 2).getLsbD k =
    [w.parent.isSome, true, w.reloc.isSome, revoking].getD k false :=
  getLsbD_bitsByte _ hk

theorem windowPayload_flags_lt : (byteAt (windowPayload a g revoking w z) 2).toNat < 16 :=
  toNat_bitsByte_lt [w.parent.isSome, true, w.reloc.isSome, revoking]

theorem windowPayload_no_parent (h : w.parent = none) : byteAt (windowPayload a g revoking w z) 3 = 0#8 :=
  show optByte (w.parent.map Fin.val) = 0#8 by rw [h]; rfl

theorem windowPayload_parent {q : SlotIx} (h : w.parent = some q) :
    slotIxAt (windowPayload a g revoking w z) 3 = some q :=
  slotIxAt_of_byte (show optByte (w.parent.map Fin.val) = _ by rw [h]; rfl)

theorem windowPayload_no_reloc (h : w.reloc = none) : fieldAt (windowPayload a g revoking w z) 19 6 = 0 := by
  have hslice : ((windowPayload a g revoking w z).drop 19).take 6 = signed48Bytes (w.reloc.getD 0) := rfl
  rw [h] at hslice
  exact fieldAt_eq_zero hslice

theorem windowPayload_reloc {v : Int} (h : w.reloc = some v) (hlo : -140737488355328 ≤ v) (hhi : v < 140737488355328) :
    signed48At (windowPayload a g revoking w z) 19 = v := by
  have hslice : ((windowPayload a g revoking w z).drop 19).take 6 = signed48Bytes (w.reloc.getD 0) := rfl
  rw [h] at hslice
  exact signed48At_of_slice hslice hlo hhi

theorem windowPayload_depth (h : w.depth < 256) : (byteAt (windowPayload a g revoking w z) 4).toNat = w.depth :=
  toNat_ofNat_byte h

theorem windowPayload_base (h : w.base < 281474976710656) : fieldAt (windowPayload a g revoking w z) 5 6 = w.base :=
  fieldAt_of_slice rfl h

theorem windowPayload_limit (h : w.limit < 281474976710656) :
    fieldAt (windowPayload a g revoking w z) 11 6 = w.limit :=
  fieldAt_of_slice rfl h

theorem windowPayload_offset (hlo : -140737488355328 ≤ w.offset) (hhi : w.offset < 140737488355328) :
    signed48At (windowPayload a g revoking w z) 25 = w.offset :=
  signed48At_of_slice rfl hlo hhi

theorem windowPayload_childCount : (byteAt (windowPayload a g revoking w z) 31).toNat =
    (List.range 64).countP fun n => w.children.getLsbD n :=
  toNat_ofNat_byte (lt_of_le_of_lt List.countP_le_length (by rw [List.length_range]; omega))

theorem windowPayload_children : fieldAt (windowPayload a g revoking w z) 32 8 = w.children.toNat :=
  fieldAt_of_slice rfl w.children.isLt

theorem windowPayload_inFlight (h : w.inFlight < 256) :
    (byteAt (windowPayload a g revoking w z) 40).toNat = w.inFlight :=
  toNat_ofNat_byte h

theorem windowPayload_cover : byteAt (windowPayload a g revoking w z) 41 = z :=
  rfl

end WindowPayload

/-- A window's record, LIVE or REVOKING, field by field. -/
theorem report_window_fields (g : Byte) (w : Window) (c : SlotIx) (revoking : Bool) (p : List Byte)
    (hp : p = WindowSlot.report ⟨g, if revoking then .revoking w c else .live w⟩) (hbase : w.base < 281474976710656)
    (hlimit : w.limit < 281474976710656) (hlo : -140737488355328 ≤ w.offset) (hhi : w.offset < 140737488355328)
    (hreloc : ∀ v, w.reloc = some v → -140737488355328 ≤ v ∧ v < 140737488355328) (hdepth : w.depth < 256)
    (hcount : w.inFlight < 256) :
    p.length = 42 ∧ byteAt p 0 = (if revoking then 2#8 else 1#8) ∧ byteAt p 1 = g ∧
      (byteAt p 2).getLsbD 0 = w.parent.isSome ∧ (byteAt p 2).getLsbD 1 = true ∧
      (byteAt p 2).getLsbD 2 = w.reloc.isSome ∧ (byteAt p 2).getLsbD 3 = revoking ∧
      (byteAt p 2).toNat < 16 ∧ (w.parent = none → byteAt p 3 = 0#8) ∧ (w.reloc = none → fieldAt p 19 6 = 0) ∧
      (revoking = false → byteAt p 41 = 0#8) ∧
      (∀ q, w.parent = some q → slotIxAt p 3 = some q) ∧ (byteAt p 4).toNat = w.depth ∧
      fieldAt p 5 6 = w.base ∧ fieldAt p 11 6 = w.limit ∧ permsOf (byteAt p 17) = some w.perms ∧
      byteAt p 18 = w.holders ∧ (∀ v, w.reloc = some v → signed48At p 19 = v) ∧ signed48At p 25 = w.offset ∧
      (byteAt p 31).toNat = ((List.range 64).countP fun n => w.children.getLsbD n) ∧
      fieldAt p 32 8 = w.children.toNat ∧ (byteAt p 40).toNat = w.inFlight ∧
      (revoking = true → slotIxAt p 41 = some c) := by
  rw [hp, report_of_window]
  exact ⟨length_windowPayload _ _ _ _, rfl, rfl, windowPayload_flag _ _ _ _ (by omega),
    windowPayload_flag _ _ _ _ (by omega), windowPayload_flag _ _ _ _ (by omega),
    windowPayload_flag _ _ _ _ (by omega), windowPayload_flags_lt _ _ _ _, windowPayload_no_parent _ _ _ _,
    windowPayload_no_reloc _ _ _ _, fun h => by rw [windowPayload_cover, h]; rfl,
    fun _ => windowPayload_parent _ _ _ _, windowPayload_depth _ _ _ _ hdepth, windowPayload_base _ _ _ _ hbase,
    windowPayload_limit _ _ _ _ hlimit, permsOf_toByte w.perms, rfl,
    fun v h => windowPayload_reloc _ _ _ _ h (hreloc v h).1 (hreloc v h).2, windowPayload_offset _ _ _ _ hlo hhi,
    windowPayload_childCount _ _ _ _, windowPayload_children _ _ _ _, windowPayload_inFlight _ _ _ _ hcount,
    fun h => slotIxAt_of_byte (by rw [windowPayload_cover, h]; rfl)⟩

/-! ### READ_EVENT -/

/-- An event's record as READ_EVENT sends it, with its handle's two bytes, its access kind's and its address. -/
def eventPayload (r : EventRecord) (index gen access : Byte) (addr : Nat) : List Byte :=
  fieldBytes 2 r.seq.toNat
    ++ [r.kind.toByte,
        bitsByte [r.desc.initiator.isSome, r.desc.window.isSome, r.desc.handle.isSome, r.desc.access.isSome,
          r.desc.addr.isSome, r.desc.len.isSome, r.desc.tag.isSome, r.desc.inFlightTotal.isSome],
        bitsByte [r.quarantine], optByte (r.desc.initiator.map Fin.val), optByte (r.desc.window.map Fin.val), index,
        gen, access]
    ++ fieldBytes 5 addr
    ++ [optByte (r.desc.len.map beatCount), optByte (r.desc.tag.map Fin.val)]
    ++ fieldBytes 4 r.firstTick.toNat ++ fieldBytes 4 r.lastTick.toNat
    ++ [BitVec.ofNat 8 r.repeats, BitVec.ofNat 8 r.drops, optByte r.desc.inFlightTotal]

theorem report_of_event (r : EventRecord) :
    r.report = eventPayload r (optByte (r.desc.handle.map fun h => h.index.val))
      ((r.desc.handle.map Handle.gen).getD 0#8) (if r.desc.access = some .write then 1#8 else 0#8)
      ((r.desc.addr.map BitVec.toNat).getD 0) := by
  obtain ⟨_, _, ⟨_, _, handle, access, addr, _, _, _⟩, _, _, _, _, _⟩ := r
  have haccess : (match access with | some .write => 1#8 | _ => 0#8) =
      (if access = some .write then 1#8 else 0#8 : Byte) := by
    rcases access with _ | _ | _ <;> rfl
  have haddr : (match addr with | some a => a.toNat | none => 0) = (addr.map BitVec.toNat).getD 0 := by
    cases addr <;> rfl
  have hhandle : handleBytes handle =
      [optByte (handle.map fun h => h.index.val), (handle.map Handle.gen).getD 0#8] := by
    cases handle <;> rfl
  unfold EventRecord.report eventPayload
  dsimp only
  rw [hhandle, ← haccess, ← haddr]
  rfl

section EventPayload

variable {r : EventRecord} (index gen access : Byte) (addr : Nat)

theorem length_eventPayload : (eventPayload r index gen access addr).length = 28 :=
  rfl

theorem eventPayload_seq : fieldAt (eventPayload r index gen access addr) 0 2 = r.seq.toNat :=
  fieldAt_of_slice rfl r.seq.isLt

theorem eventPayload_flag {k : Nat} (hk : k < 8) : (byteAt (eventPayload r index gen access addr) 3).getLsbD k =
    [r.desc.initiator.isSome, r.desc.window.isSome, r.desc.handle.isSome, r.desc.access.isSome,
      r.desc.addr.isSome, r.desc.len.isSome, r.desc.tag.isSome, r.desc.inFlightTotal.isSome].getD k false :=
  getLsbD_bitsByte _ hk

theorem eventPayload_quarantine : (byteAt (eventPayload r index gen access addr) 4).getLsbD 0 = r.quarantine :=
  getLsbD_bitsByte [r.quarantine] (by omega)

theorem eventPayload_quarantine_lt : (byteAt (eventPayload r index gen access addr) 4).toNat < 2 :=
  toNat_bitsByte_lt [r.quarantine]

theorem eventPayload_initiator : byteAt (eventPayload r index gen access addr) 5 =
    optByte (r.desc.initiator.map Fin.val) :=
  rfl

theorem eventPayload_window : byteAt (eventPayload r index gen access addr) 6 = optByte (r.desc.window.map Fin.val) :=
  rfl

theorem eventPayload_handle : byteAt (eventPayload r index gen access addr) 7 = index ∧
    byteAt (eventPayload r index gen access addr) 8 = gen :=
  ⟨rfl, rfl⟩

theorem eventPayload_access : byteAt (eventPayload r index gen access addr) 9 = access :=
  rfl

theorem eventPayload_addr (h : addr < 1099511627776) : fieldAt (eventPayload r index gen access addr) 10 5 = addr :=
  fieldAt_of_slice rfl h

theorem eventPayload_len : byteAt (eventPayload r index gen access addr) 15 = optByte (r.desc.len.map beatCount) :=
  rfl

theorem eventPayload_tag : byteAt (eventPayload r index gen access addr) 16 = optByte (r.desc.tag.map Fin.val) :=
  rfl

theorem eventPayload_firstTick : fieldAt (eventPayload r index gen access addr) 17 4 = r.firstTick.toNat :=
  fieldAt_of_slice rfl r.firstTick.isLt

theorem eventPayload_lastTick : fieldAt (eventPayload r index gen access addr) 21 4 = r.lastTick.toNat :=
  fieldAt_of_slice rfl r.lastTick.isLt

theorem eventPayload_total : byteAt (eventPayload r index gen access addr) 27 = optByte r.desc.inFlightTotal :=
  rfl

end EventPayload

/-- Settles O43: each field of the two layouts stands in its place. -/
theorem readBackPayloadsCarryTheirFields : Obligations.ReadBackPayloadsCarryTheirFields := by
  unfold Obligations.ReadBackPayloadsCarryTheirFields
  refine ⟨report_window_fields, fun _ => rfl, fun r p hp hrepeats hdrops htotal => ?_⟩
  rw [hp, report_of_event]
  have haddr : (r.desc.addr.map BitVec.toNat).getD 0 < 1099511627776 := by
    cases r.desc.addr with
    | none => simp
    | some a => exact a.isLt
  refine ⟨length_eventPayload _ _ _ _, eventPayload_seq _ _ _ _, rfl, eventPayload_flag _ _ _ _ (by omega),
    eventPayload_flag _ _ _ _ (by omega), eventPayload_flag _ _ _ _ (by omega), eventPayload_flag _ _ _ _ (by omega),
    eventPayload_flag _ _ _ _ (by omega), eventPayload_flag _ _ _ _ (by omega), eventPayload_flag _ _ _ _ (by omega),
    eventPayload_flag _ _ _ _ (by omega), eventPayload_quarantine _ _ _ _, eventPayload_quarantine_lt _ _ _ _,
    fun h => by rw [eventPayload_initiator, h]; rfl, fun h => by rw [eventPayload_window, h]; rfl,
    fun h => by rw [(eventPayload_handle _ _ _ _).1, (eventPayload_handle _ _ _ _).2, h]; exact ⟨rfl, rfl⟩,
    fun h => by rw [eventPayload_access, h]; rfl, fun h => by rw [eventPayload_addr _ _ _ _ haddr, h]; rfl,
    fun h => by rw [eventPayload_len, h]; rfl, fun h => by rw [eventPayload_tag, h]; rfl,
    fun h => by rw [eventPayload_total, h]; rfl,
    fun n h => initiatorAt_of_byte (by rw [eventPayload_initiator, h]; rfl),
    fun i h => slotIxAt_of_byte (by rw [eventPayload_window, h]; rfl),
    fun g h => handleAt_of_bytes (by rw [(eventPayload_handle _ _ _ _).1, h]; rfl)
      (by rw [(eventPayload_handle _ _ _ _).2, h]; rfl),
    fun k h => by rw [eventPayload_access, h]; cases k <;> rfl,
    fun a h => by rw [eventPayload_addr _ _ _ _ haddr, h]; rfl, fun l h => ?_,
    fun τ h => by rw [eventPayload_tag, h]; exact toNat_optByte rfl (by omega), eventPayload_firstTick _ _ _ _,
    eventPayload_lastTick _ _ _ _, toNat_ofNat_byte hrepeats, toNat_ofNat_byte hdrops,
    fun k h => by rw [eventPayload_total]; exact toNat_optByte h (htotal k h)⟩
  rw [eventPayload_len, h]
  exact toNat_optByte rfl (by unfold beatCount; omega)

end Sys2Proof.Machine

/-! SUPPORT. The commands of the host that read, bind and set: what each leaves when it is taken (chapters 3, 8 and 9,
R75, R136, R168, R181). -/

namespace Sys2Proof.Machine

/- One proof after another: a thread for each at once is more than a machine holds. -/
set_option Elab.async false

/-! ### READ_WINDOW and READ_INITIATOR (R75, R136) -/

/-- Settles O47. -/
theorem readWindowReturnsTheRecord : Obligations.ReadWindowReturnsTheRecord := by
  unfold Obligations.ReadWindowReturnsTheRecord
  intro s f rest k ht hc
  rw [show exec .readWindow s = .next (readWindowBody k f.payload (s.deferred f rest k)) from exec_takes ht hc,
    readWindowBody]
  refine ⟨fun i hi => ?_, fun h => ?_⟩
  · rw [slotIxAt_iff.mpr hi]
    exact congrArg _ (answer_deferred s f rest k _ _)
  · rw [slotIxAt_none h]
    exact congrArg _ (answer_deferred s f rest k _ _)

/-- A context's record as READ_INITIATOR sends it: its state's and policy's bytes, the current default's, the pending
binding's and the ticks that its drain timer counted. -/
def contextPayload (c : Context) (state policy i g kind pi pg rebind timer : Byte) (elapsed : Nat) : List Byte :=
  [state, policy, bitsByte [c.current.isSome], i, g, kind, pi, pg, rebind, timer] ++ fieldBytes 2 elapsed
    ++ [BitVec.ofNat 8 c.undelivered]

theorem report_settled {c : Context} (h : c.rebind = .none) :
    c.report = contextPayload c (if c.state = .opened then 1#8 else 0#8) (if c.policy = .quarantine then 1#8 else 0#8)
      (optByte (c.current.map fun h => h.index.val)) ((c.current.map Handle.gen).getD 0#8) 0#8 0#8 0#8 0#8 0#8 0 := by
  obtain ⟨state, policy, current, rebind, _⟩ := c
  cases h
  cases state <;> cases policy <;> cases current <;> rfl

theorem report_pending {c : Context} {p : Pending} (h : c.rebind.pending? = some p) :
    c.report = contextPayload c (if c.state = .opened then 1#8 else 0#8) (if c.policy = .quarantine then 1#8 else 0#8)
      (optByte (c.current.map fun h => h.index.val)) ((c.current.map Handle.gen).getD 0#8)
      (if p.target.isSome then 2#8 else 1#8) (optByte (p.target.map fun h => h.index.val))
      ((p.target.map Handle.gen).getD 0#8) (if c.rebind.isFencing then 2#8 else 1#8) 1#8 p.elapsed := by
  have hhandle (o : Option Handle) :
      handleBytes o = [optByte (o.map fun h => h.index.val), (o.map Handle.gen).getD 0#8] := by
    cases o <;> rfl
  unfold Context.report
  rw [h, hhandle]
  dsimp only
  rw [hhandle]
  cases c.state <;> cases c.policy <;> rfl

theorem report_form (c : Context) : ∃ kind pi pg rebind timer elapsed,
    c.report = contextPayload c (if c.state = .opened then 1#8 else 0#8) (if c.policy = .quarantine then 1#8 else 0#8)
      (optByte (c.current.map fun h => h.index.val)) ((c.current.map Handle.gen).getD 0#8) kind pi pg rebind timer
      elapsed := by
  cases h : c.rebind.pending? with
  | none => exact ⟨_, _, _, _, _, _, report_settled (Rebind.pending_none.mp h)⟩
  | some p => exact ⟨_, _, _, _, _, _, report_pending h⟩

/-- The fields that every context has, pending binding or none. -/
theorem report_context_fields (c : Context) (hcount : c.undelivered < 256) :
    c.report.length = 13 ∧ byteAt c.report 0 = (if c.state = .opened then 1#8 else 0#8) ∧
      byteAt c.report 1 = (if c.policy = .quarantine then 1#8 else 0#8) ∧
      (∀ h, c.current = some h → byteAt c.report 2 = 1#8 ∧ handleAt c.report 3 = some h) ∧
      (c.current = none → byteAt c.report 2 = 0#8 ∧ byteAt c.report 3 = 0#8 ∧ byteAt c.report 4 = 0#8) ∧
      (byteAt c.report 12).toNat = c.undelivered := by
  obtain ⟨kind, pi, pg, rebind, timer, elapsed, hform⟩ := report_form c
  have hflag : byteAt c.report 2 = bitsByte [c.current.isSome] := by rw [hform]; rfl
  have hindex : byteAt c.report 3 = optByte (c.current.map fun h => h.index.val) := by rw [hform]; rfl
  have hgen : byteAt c.report 4 = (c.current.map Handle.gen).getD 0#8 := by rw [hform]; rfl
  refine ⟨by rw [hform]; rfl, by rw [hform]; rfl, by rw [hform]; rfl, fun h hcurrent => ?_, fun hcurrent => ?_, ?_⟩
  · rw [hcurrent] at hflag hindex hgen
    exact ⟨hflag, handleAt_of_bytes hindex hgen⟩
  · rw [hcurrent] at hflag hindex hgen
    exact ⟨hflag, hindex, hgen⟩
  · rw [hform]
    exact toNat_ofNat_byte hcount

theorem report_no_pending {c : Context} (h : c.rebind = .none) :
    byteAt c.report 5 = 0#8 ∧ byteAt c.report 6 = 0#8 ∧ byteAt c.report 7 = 0#8 ∧ byteAt c.report 8 = 0#8 ∧
      byteAt c.report 9 = 0#8 ∧ fieldAt c.report 10 2 = 0 := by
  rw [report_settled h]
  exact ⟨rfl, rfl, rfl, rfl, rfl, fieldAt_eq_zero rfl⟩

theorem report_pending_fields {c : Context} {p : Pending} (h : c.rebind = .staged p ∨ c.rebind = .fencing p)
    (helapsed : p.elapsed < 65536) :
    (∀ g, p.target = some g → byteAt c.report 5 = 2#8 ∧ handleAt c.report 6 = some g) ∧
      (p.target = none → byteAt c.report 5 = 1#8 ∧ byteAt c.report 6 = 0#8 ∧ byteAt c.report 7 = 0#8) ∧
      byteAt c.report 8 = (if c.rebind = .fencing p then 2#8 else 1#8) ∧ byteAt c.report 9 = 1#8 ∧
      fieldAt c.report 10 2 = p.elapsed := by
  have hform := report_pending (c := c) (p := p) (by rcases h with h | h <;> rw [h] <;> rfl)
  have hkind : byteAt c.report 5 = if p.target.isSome then 2#8 else 1#8 := by rw [hform]; rfl
  have hindex : byteAt c.report 6 = optByte (p.target.map fun h => h.index.val) := by rw [hform]; rfl
  have hgen : byteAt c.report 7 = (p.target.map Handle.gen).getD 0#8 := by rw [hform]; rfl
  have hrebind : byteAt c.report 8 = if c.rebind.isFencing then 2#8 else 1#8 := by rw [hform]; rfl
  refine ⟨fun g hg => ?_, fun hnone => ?_, ?_, by rw [hform]; rfl, by rw [hform]; exact fieldAt_of_slice rfl helapsed⟩
  · rw [hg] at hkind hindex hgen
    exact ⟨hkind, handleAt_of_bytes hindex hgen⟩
  · rw [hnone] at hkind hindex hgen
    exact ⟨hkind, hindex, hgen⟩
  · rw [hrebind]
    rcases h with h | h <;> simp [h, Rebind.isFencing]

/-- Settles O56. -/
theorem readInitiatorReturnsTheContext : Obligations.ReadInitiatorReturnsTheContext := by
  unfold Obligations.ReadInitiatorReturnsTheContext
  refine ⟨fun s f rest k ht hc => ?_, fun c r hr hcount helapsed => ?_⟩
  · rw [show exec .readInitiator s = .next (readInitiatorBody k f.payload (s.deferred f rest k)) from
      exec_takes ht hc, readInitiatorBody]
    refine ⟨fun n hn => ?_, fun h => ?_⟩
    · rw [initiatorAt_iff.mpr hn]
      exact congrArg _ (answer_deferred s f rest k _ _)
    · rw [initiatorAt_none h]
      exact congrArg _ (answer_deferred s f rest k _ _)
  · subst hr
    obtain ⟨hlength, hstate, hpolicy, hsome, hnone, hundelivered⟩ := report_context_fields c hcount
    refine ⟨hlength, hstate, hpolicy, hsome, hnone, report_no_pending, fun p hp => ?_, hundelivered⟩
    exact report_pending_fields hp (helapsed p (by rcases hp with h | h <;> rw [h] <;> rfl))

/-! ### SET_INITIATOR (R58) -/

theorem initStateOf_le {b : Byte} (h : b.toNat ≤ 1) :
    initStateOf b = some (if b = 1#8 then .opened else .closed) := by
  have hb : b = 0#8 ∨ b = 1#8 := by bv_omega
  rcases hb with rfl | rfl <;> rfl

theorem policyOf_le {b : Byte} (h : b.toNat ≤ 1) : policyOf b = some (if b = 1#8 then .quarantine else .answer) := by
  have hb : b = 0#8 ∨ b = 1#8 := by bv_omega
  rcases hb with rfl | rfl <;> rfl

theorem initStateOf_ge {b : Byte} (h : 2 ≤ b.toNat) : initStateOf b = none := by
  unfold initStateOf
  rw [if_neg (by bv_omega), if_neg (by bv_omega)]

theorem policyOf_ge {b : Byte} (h : 2 ≤ b.toNat) : policyOf b = none := by
  unfold policyOf
  rw [if_neg (by bv_omega), if_neg (by bv_omega)]

/-- Settles O55. -/
theorem setInitiatorSetsStateAndPolicy : Obligations.SetInitiatorSetsStateAndPolicy := by
  unfold Obligations.SetInitiatorSetsStateAndPolicy
  intro s f rest k ht hc
  rw [show exec .setInitiator s = .next (setInitiatorBody k f.payload (s.deferred f rest k)) from exec_takes ht hc,
    setInitiatorBody]
  refine ⟨fun n hn hstate hpolicy => ?_, fun h => ?_, fun hn hbad => ?_⟩
  · rw [initiatorAt_iff.mpr hn, initStateOf_le hstate, policyOf_le hpolicy]
    dsimp only
    rw [← answer_deferred s f rest k]
    rfl
  · rw [initiatorAt_none h]
    exact congrArg _ (answer_deferred s f rest k _ _)
  · rw [initiatorAt_iff (n := ⟨_, hn⟩).mpr rfl]
    refine congrArg _ ?_
    rcases hbad with hstate | hpolicy
    · rw [initStateOf_ge hstate]
      exact answer_deferred s f rest k _ _
    · rw [policyOf_ge hpolicy]
      cases initStateOf (byteAt f.payload 1) <;> exact answer_deferred s f rest k _ _

/-! ### SET_CONTROL (R168) -/

theorem flagOf_le {b : Byte} (h : b.toNat ≤ 1) : flagOf b = some (decide (b = 1#8)) := by
  have hb : b = 0#8 ∨ b = 1#8 := by bv_omega
  rcases hb with rfl | rfl <;> rfl

theorem settingsOf_good {p : List Byte} (hlo : 1 ≤ fieldAt p 0 2) (hhi : fieldAt p 0 2 ≤ 1024)
    (hevents : (byteAt p 8).toNat ≤ 1) (hresponses : (byteAt p 9).toNat ≤ 1) :
    settingsOf p = some ⟨fieldAt p 0 2, fieldAt p 2 2, fieldAt p 4 2, fieldAt p 6 2, decide (byteAt p 8 = 1#8),
      decide (byteAt p 9 = 1#8)⟩ := by
  rw [settingsOf, flagOf_le hevents, flagOf_le hresponses]
  exact if_pos ⟨hlo, hhi⟩

theorem settingsOf_bad {p : List Byte} (h : fieldAt p 0 2 = 0 ∨ 1024 < fieldAt p 0 2 ∨ 2 ≤ (byteAt p 8).toNat ∨
    2 ≤ (byteAt p 9).toNat) : settingsOf p = none := by
  unfold settingsOf
  dsimp only
  split
  next ev rs hev hrs =>
    refine if_neg fun hrange => ?_
    have hev' : ¬1 < (byteAt p 8).toNat := fun hgt => by rw [flagOf_none.mpr hgt] at hev; cases hev
    have hrs' : ¬1 < (byteAt p 9).toNat := fun hgt => by rw [flagOf_none.mpr hgt] at hrs; cases hrs
    omega
  next => rfl

/-- Settles O58. -/
theorem setControlWritesAllOrNone : Obligations.SetControlWritesAllOrNone := by
  unfold Obligations.SetControlWritesAllOrNone
  intro s f rest k prescale ht hc hprescale
  subst hprescale
  rw [show exec .setControl s = .next (setControlBody k f.payload (s.deferred f rest k)) from exec_takes ht hc,
    setControlBody]
  refine ⟨fun hlo hhi hevents hresponses => ⟨_, rfl, ?_⟩, fun hbad => ?_⟩
  · rw [settingsOf_good hlo hhi hevents hresponses, ← answer_deferred s f rest k]
    rfl
  · rw [settingsOf_bad hbad]
    exact congrArg _ (answer_deferred s f rest k _ _)

/-! ### READ_EVENT and READ_STATUS (R158 to R160, R181) -/

/-- Settles O59. -/
theorem readEventRemovesTheOldest : Obligations.ReadEventRemovesTheOldest := by
  unfold Obligations.ReadEventRemovesTheOldest
  intro s f rest k ht hc
  rw [show exec .readEvent s = .next (readEventBody k f.payload (s.deferred f rest k)) from exec_takes ht hc,
    readEventBody, show (s.deferred f rest k).log = s.log from rfl]
  refine ⟨fun r others hr => ?_, fun h => ?_⟩
  · rw [hr, ← answer_deferred s f rest k]
    rfl
  · rw [h]
    exact congrArg _ (answer_deferred s f rest k _ _)

/-- Every slot is LIVE, REVOKING or FREE, and one of the three alone (R27). -/
theorem windowCounts_sum (s : State) : s.liveCount + s.revokingCount + s.freeCount = 64 := by
  have hcounts : ∀ l : List SlotIx,
      l.countP (fun i => s.windows[i].isLive) + l.countP (fun i => s.windows[i].isRevoking) +
      l.countP (fun i => s.windows[i].isFree) = l.length := by
    intro l
    induction l with
    | nil => rfl
    | cons i l ih =>
      rw [List.countP_cons, List.countP_cons, List.countP_cons, List.length_cons, ← ih]
      cases h : s.windows[i].occ <;> simp only [WindowSlot.isLive, WindowSlot.isRevoking, WindowSlot.isFree, h] <;>
        simp <;> omega
  exact (hcounts _).trans (List.length_finRange)

/-- One slot is replaced: it counts no more, and the new one counts. -/
theorem countP_slot_set (v : Vector RespSlot 8) (k : RespIx) (r : RespSlot) (p : RespSlot → Bool) :
    (List.finRange 8).countP (fun j => p (v.set k r)[j]) + (if p v[k] then 1 else 0) =
      (List.finRange 8).countP (fun j => p v[j]) + (if p r then 1 else 0) := by
  have hsplit (w : Vector RespSlot 8) : (List.finRange 8).countP (fun j => p w[j]) =
      (if p w[k] then 1 else 0) + ((List.finRange 8).erase k).countP fun j => p w[j] := by
    rw [(List.perm_cons_erase (List.mem_finRange k)).countP_eq, List.countP_cons, Nat.add_comm]
  have hothers : (((List.finRange 8).erase k).countP fun j => p (v.set k r)[j]) =
      ((List.finRange 8).erase k).countP fun j => p v[j] := by
    refine List.countP_congr fun j hj => ?_
    have hne : j ≠ k := fun he => (List.Nodup.not_mem_erase (List.nodup_finRange 8)) (he ▸ hj)
    rw [slot_set, if_neg hne]
  rw [hsplit, hsplit v, hothers, slot_set, if_pos rfl]
  omega

/-- Reserving an empty slot adds one to the reserved slots and none to the filled ones. -/
theorem deferred_counts {s : State} {f : Frame} {rest : List Frame} {k : RespIx} (ht : Takes s f rest k) :
    (s.deferred f rest k).bank.filledCount = s.bank.filledCount ∧
      (s.deferred f rest k).bank.reservedCount = s.bank.reservedCount + 1 := by
  have hfilled := countP_slot_set s.bank.slots k (.reserved f.seq f.code) RespSlot.isFilled
  have hreserved := countP_slot_set s.bank.slots k (.reserved f.seq f.code) RespSlot.isReserved
  rw [ht.empty] at hfilled hreserved
  exact ⟨hfilled, hreserved⟩

/-- Settles O60. -/
theorem readStatusReportsTheCounts : Obligations.ReadStatusReportsTheCounts := by
  unfold Obligations.ReadStatusReportsTheCounts
  intro s f rest k ht hc
  obtain ⟨hfilled, hreserved⟩ := deferred_counts ht
  refine ⟨?_, windowCounts_sum s⟩
  rw [show exec .readStatus s = .next (readStatusBody k f.payload (s.deferred f rest k)) from exec_takes ht hc,
    readStatusBody, answer_deferred, State.report, hfilled, hreserved]
  cases h : s.port <;> simp [State.deferred, h] <;> rfl

/-! ### The event log (R154 to R158) -/

theorem matchesEvent_iff {r : EventRecord} {e : Event} : r.matchesEvent e = true ↔
    r.kind = e.kind ∧ r.desc.initiator = e.desc.initiator ∧ r.desc.window = e.desc.window := by
  rw [EventRecord.matchesEvent, Bool.and_eq_true, Bool.and_eq_true, beq_iff_eq, beq_iff_eq, beq_iff_eq, and_assoc]

/-- Settles O57. -/
theorem eventLogCoalescesStartsOrLoses : Obligations.EventLogCoalescesStartsOrLoses := by
  unfold Obligations.EventLogCoalescesStartsOrLoses
  intro older newest seq tick e
  refine ⟨fun hkind hinitiator hwindow => ?_, fun hdiffers => ?_, ?_⟩
  · exact hand_coalesce (l := ⟨older ++ [newest], seq⟩) tick rfl (matchesEvent_iff.mpr ⟨hkind, hinitiator, hwindow⟩)
  · have hm : newest.matchesEvent e = false := eq_false_of_iff matchesEvent_iff hdiffers
    refine ⟨fun hroom => ?_, fun hfull => ?_⟩
    · refine hand_new (l := ⟨older ++ [newest], seq⟩) tick ?_ ?_
      · rw [EventLog.coalesces, List.getLast?_concat]
        exact hm
      · rw [List.length_append]
        exact Nat.add_lt_of_lt_sub hroom
    · exact hand_lost (l := ⟨older ++ [newest], seq⟩) tick rfl hm (Nat.add_le_add_right hfull 1)
  · exact hand_new (l := ⟨[], seq⟩) tick rfl (show 0 < Config.logDepth by decide)

/-! ### BIND_DEFAULT (R62 to R65) -/

/-- A binding that passes its checks. -/
theorem bindChecks_passes {s : State} {n : Initiator} {b : Binding} {target : Option Handle}
    (h : BindPasses s n b target) : bindChecks s n b = .ok target := by
  cases h with
  | clear => rfl
  | handle g w hl hholder =>
    simp only [bindChecks, validHandle_of_live hl, hl.2, hholder, Bool.not_true, Bool.false_eq_true, if_false, if_true]

theorem bind_commits {s : State} {n : Initiator} (k : RespIx) (target : Option Handle)
    (hrebind : s.contexts[n].rebind = .none) (hcount : s.contexts[n].undelivered = 0) :
    s.bind n k target =
      { s with contexts := s.contexts.set n { s.contexts[n] with current := target } }.answer k .done := by
  rw [State.bind, hrebind]
  exact if_pos hcount

theorem bind_stages {s : State} {n : Initiator} (k : RespIx) (target : Option Handle)
    (hrebind : s.contexts[n].rebind = .none) (hcount : 0 < s.contexts[n].undelivered)
    (hdeadline : 0 < s.settings.drainDeadline) :
    s.bind n k target =
      { s with
        contexts := s.contexts.set n { s.contexts[n] with rebind := .staged ⟨target, k, 0, false⟩ } } := by
  rw [State.bind, hrebind]
  exact (if_neg (by omega)).trans (if_neg (by omega))

theorem bind_fences {s : State} {n : Initiator} (k : RespIx) (target : Option Handle)
    (hrebind : s.contexts[n].rebind = .none) (hcount : 0 < s.contexts[n].undelivered)
    (hdeadline : s.settings.drainDeadline = 0) :
    s.bind n k target =
      { s with
        contexts := s.contexts.set n { s.contexts[n] with rebind := .fencing ⟨target, k, 0, false⟩ }
        log := s.log.hand s.tickCount (fenceBegun n ⟨target, k, 0, false⟩) } := by
  rw [State.bind, hrebind]
  exact (if_neg (by omega)).trans (if_pos hdeadline)

theorem bind_replaces {s : State} {n : Initiator} (k : RespIx) (target : Option Handle) {p : Pending}
    (hp : s.contexts[n].rebind.pending? = some p) : s.bind n k target = s.replaceBinding n k target p := by
  rw [State.bind, hp]

theorem replaceBinding_eq {s : State} {n : Initiator} (k : RespIx) (target : Option Handle) {p : Pending} {seq : Byte}
    {code : CommandCode} {rebind : Rebind} (hslot : s.bank.slots[p.slot] = .reserved seq code)
    (hrebind : (s.contexts[n].rebind = .staged p ∧ rebind = .staged { p with target := target, slot := k }) ∨
      (s.contexts[n].rebind = .fencing p ∧ rebind = .fencing { p with target := target, slot := k })) :
    s.replaceBinding n k target p =
      { s with
        contexts := s.contexts.set n { s.contexts[n] with rebind := rebind }
        bank :=
          { slots := s.bank.slots.set p.slot (.filled ⟨seq, code, .replaced, []⟩)
            order := s.bank.order ++ [p.slot] } } := by
  unfold State.replaceBinding State.fillAll State.updContext
  rw [List.foldl_cons, List.foldl_nil, fill_reserved .replaced [] hslot]
  rw [updAt_eq_set _ n _ (a := { s.contexts[n] with rebind := rebind })]
  rcases hrebind with ⟨h, rfl⟩ | ⟨h, rfl⟩ <;> rw [h]

theorem deferred_slot {s : State} {f : Frame} {rest : List Frame} {k : RespIx} (ht : Takes s f rest k) {j : RespIx}
    {seq : Byte} {code : CommandCode} (h : s.bank.slots[j] = .reserved seq code) :
    (s.deferred f rest k).bank.slots[j] = .reserved seq code := by
  refine (slot_set s.bank.slots k j _).trans ((if_neg fun he => ?_).trans h)
  rw [he, ht.empty] at h
  cases h

/-- Settles O53. -/
theorem bindDefaultCommitsStagesOrReplaces : Obligations.BindDefaultCommitsStagesOrReplaces := by
  unfold Obligations.BindDefaultCommitsStagesOrReplaces
  intro s f rest k n target ht hc hn hpasses
  rw [show exec .bindDefault s = .next (bindDefaultBody k f.payload (s.deferred f rest k)) from exec_takes ht hc,
    bindDefaultBody, hn]
  dsimp only
  rw [bindChecks_deferred, bindChecks_passes hpasses]
  dsimp only
  refine ⟨fun hrebind hcount => ?_, fun hrebind hcount hdeadline => ?_, fun hrebind hcount hdeadline => ?_,
    fun p seq code hslot => ⟨fun hrebind => ?_, fun hrebind => ?_⟩⟩
  · rw [bind_commits (s := s.deferred f rest k) k target hrebind hcount, ← answer_deferred s f rest k]
    rfl
  · rw [bind_stages (s := s.deferred f rest k) k target hrebind hcount hdeadline]
    rfl
  · rw [bind_fences (s := s.deferred f rest k) k target hrebind hcount hdeadline]
    rfl
  · rw [bind_replaces (s := s.deferred f rest k) k target (p := p)
        (by rw [show (s.deferred f rest k).contexts = s.contexts from rfl, hrebind]; rfl),
      replaceBinding_eq (s := s.deferred f rest k) k target (deferred_slot ht hslot) (.inl ⟨hrebind, rfl⟩)]
    rfl
  · rw [bind_replaces (s := s.deferred f rest k) k target (p := p)
        (by rw [show (s.deferred f rest k).contexts = s.contexts from rfl, hrebind]; rfl),
      replaceBinding_eq (s := s.deferred f rest k) k target (deferred_slot ht hslot) (.inr ⟨hrebind, rfl⟩)]
    rfl

end Sys2Proof.Machine

/-! SUPPORT. An acceptance of REVOKE and a free of a drained subtree, block by block (R72, R138 to R146). -/

namespace Sys2Proof.Machine

/- One proof after another: a thread for each at once is more than a machine holds. -/
set_option Elab.async false

/-! ### REVOKE (R138 to R143) -/

theorem revokeChecks_passes {s : State} {g : Handle} {w : Window} (h0 : g.index ≠ 0) (hl : s.namesLive g w)
    (hroom : (s.revocations.filter fun e => !(subtreeOf s.windows g.index).getLsbD e.root.index.val).length + 1 ≤ 4) :
    revokeChecks s (some g) = .ok g := by
  have hrevoking : s.windows[g.index].isRevoking = false := by rw [WindowSlot.isRevoking, hl.2]
  have hok : s.revocationRoom g.index = true := decide_eq_true hroom
  simp only [revokeChecks, validHandle_of_live hl, hrevoking, h0, hok, Bool.not_true, Bool.false_eq_true, if_false]

theorem markSlot_free {m : BitVec 64} {root i : SlotIx} {v : WindowSlot} (h : v.occ = .free) :
    markSlot m root i v = v := by
  unfold markSlot
  rw [h]
  split <;> rfl

section Accepted

variable (s : State) (g : Handle) (k : RespIx)

theorem acceptRevoke_window (i : SlotIx) : (s.acceptRevoke g k).windows[i] =
    markSlot (subtreeOf s.windows g.index) g.index i s.windows[i] := by
  rw [acceptRevoke_windows, ofFn_get]

theorem acceptRevoke_context (n : Initiator) :
    (s.acceptRevoke g k).contexts[n] = s.contexts[n].afterRevoke (subtreeOf s.windows g.index) := by
  rw [acceptRevoke_contexts, map_get]

theorem acceptRevoke_log : (s.acceptRevoke g k).log =
    ((List.finRange 8).filterMap (clearedEvent (subtreeOf s.windows g.index) s.contexts)).foldl
      (fun (l : EventLog) (e : Event) => l.hand s.tickCount e) s.log := by
  simp only [State.acceptRevoke, State.fillAll_log]
  rfl

theorem acceptRevoke_frame : s.acceptRevoke g k =
    { s with
      windows := (s.acceptRevoke g k).windows, contexts := (s.acceptRevoke g k).contexts
      revocations := (s.acceptRevoke g k).revocations, log := (s.acceptRevoke g k).log
      bank := (s.acceptRevoke g k).bank } := by
  simp only [State.acceptRevoke, State.fillAll, State.logAll]

end Accepted

theorem afterRevoke_current_eq (m : BitVec 64) (c : Context) : (c.afterRevoke m).current =
    match c.current with
    | some g => if m.getLsbD g.index.val then none else some g
    | none => none := by
  unfold Context.afterRevoke inSet
  cases c.current <;> rfl

theorem discarded_of_in {m : BitVec 64} {c : Context} {p : Pending} {g : Handle} (hp : c.rebind.pending? = some p)
    (ht : p.target = some g) (hin : m.getLsbD g.index.val = true) : c.discarded m = some p := by
  rw [Context.discarded, hp]
  exact if_pos (inSet_iff.mpr ⟨g, ht, hin⟩)

theorem discarded_of_out {m : BitVec 64} {c : Context} (h : ∀ p g, c.rebind.pending? = some p → p.target = some g →
    m.getLsbD g.index.val = false) : c.discarded m = none := by
  unfold Context.discarded
  split
  next p hp =>
    refine if_neg fun hin => ?_
    obtain ⟨g, ht, hg⟩ := inSet_iff.mp hin
    rw [h p g hp ht] at hg
    cases hg
  next => rfl

theorem clearedEvent_eq (m : BitVec 64) (cs : Vector Context 8) (n : Initiator) : clearedEvent m cs n =
    match cs[n].current with
    | some g =>
      if m.getLsbD g.index.val = true then some
        { kind := .defaultCleared
          desc := { initiator := some n, window := some g.index, handle := some g } }
      else none
    | none => none := by
  unfold clearedEvent inSet
  cases cs[n].current <;> rfl

theorem discardFill_eq (m : BitVec 64) (cs : Vector Context 8) (n : Initiator) : discardFill m cs n =
    match cs[n].rebind with
    | .staged ⟨some g, slot, _, _⟩ | .fencing ⟨some g, slot, _, _⟩ =>
      if m.getLsbD g.index.val = true then some ⟨slot, .discarded, []⟩ else none
    | _ => none := by
  unfold discardFill Context.discarded inSet
  rcases cs[n].rebind with _ | ⟨_ | g, slot, elapsed, due⟩ | ⟨_ | g, slot, elapsed, due⟩
  · rfl
  · rfl
  · dsimp only [Rebind.pending?]
    by_cases hg : m.getLsbD g.index.val = true
    · rw [if_pos hg, if_pos hg]
      rfl
    · rw [if_neg hg, if_neg hg]
      rfl
  · rfl
  · dsimp only [Rebind.pending?]
    by_cases hg : m.getLsbD g.index.val = true
    · rw [if_pos hg, if_pos hg]
      rfl
    · rw [if_neg hg, if_neg hg]
      rfl

/-- Settles O49: the acceptance, block by block. -/
theorem revokeMarksTheWholeSubtree : Obligations.RevokeMarksTheWholeSubtree := by
  unfold Obligations.RevokeMarksTheWholeSubtree
  refine ⟨fun b k o payload => ⟨fun seq code h => fill_reserved o payload h, fun h => fill_other h⟩, ?_⟩
  intro s f rest k h w m ht hc hh h0 hl hm hroom
  subst hm
  refine ⟨(s.deferred f rest k).acceptRevoke h k, ?_, acceptRevoke_frame _ h k, fun i => ?_, fun n => ?_, rfl, ?_, ?_⟩
  · rw [show exec .revoke s = .next (revokeBody k f.payload (s.deferred f rest k)) from exec_takes ht hc,
      revokeBody, revokeChecks_deferred, hh, revokeChecks_passes h0 hl hroom]
  · have hslot : ((s.deferred f rest k).acceptRevoke h k).windows[i] =
        markSlot (subtreeOf s.windows h.index) h.index i s.windows[i] :=
      acceptRevoke_window (s.deferred f rest k) h k i
    rw [hslot]
    refine ⟨WindowLaw.markSlot_gen _ _ _ _, fun hout => WindowLaw.markSlot_out _ hout,
      fun hin => ⟨fun hfree => ?_, fun v hv => ?_,
      fun v c hv => ?_⟩⟩
    · rw [markSlot_free hfree]
      exact hfree
    · exact WindowLaw.markSlot_in hin (window_of_live hv)
    · exact WindowLaw.markSlot_in hin (window_of_revoking hv)
  · have hcontext : ((s.deferred f rest k).acceptRevoke h k).contexts[n] =
        s.contexts[n].afterRevoke (subtreeOf s.windows h.index) :=
      acceptRevoke_context (s.deferred f rest k) h k n
    rw [hcontext]
    refine ⟨rfl, afterRevoke_current_eq _ _, fun p g hp htarget hin => ?_, fun hout => ?_⟩
    · exact if_pos (by rw [discarded_of_in hp htarget hin]; rfl)
    · exact if_neg (by rw [discarded_of_out hout]; exact Bool.false_ne_true)
  · refine (acceptRevoke_log (s.deferred f rest k) h k).trans ?_
    exact congrArg (List.foldl _ s.log) (List.filterMap_congr fun n _ => clearedEvent_eq _ s.contexts n)
  · refine (Filled.acceptRevoke_bank (s.deferred f rest k) h k).trans ?_
    exact congrArg (List.foldl _ (s.deferred f rest k).bank)
      (List.filterMap_congr fun n _ => discardFill_eq _ s.contexts n)

/-! ### SUBTREE_FREE (R145, R146) -/

theorem exec_subtreeFree {s : State} (pos : Fin 4) (hr : s.resetn = true) :
    exec (.subtreeFree pos) s = .next (s.testDrain pos.val) :=
  whenOutOfReset_high (·.testDrain pos.val) hr

section Freed

variable {t : Vector WindowSlot 64} {root i p : SlotIx}

theorem freedSlot_covered (h : t[i].coveredBy root = true) : freedSlot t root i = ⟨t[i].gen + 1#8, .free⟩ :=
  if_pos h

theorem freedSlot_parent {w : Window} (hroot : t[root].occ = .revoking w root) (hp : w.parent = some p)
    (h : t[p].coveredBy root = false) : freedSlot t root p =
      t[p].mapWindow fun v => { v with children := v.children &&& ~~~slotBit root } := by
  have hparent : (t[root].occ.window?.bind Window.parent) = some p := by
    rw [window_of_revoking hroot]
    exact hp
  exact (if_neg (by rw [h]; exact Bool.false_ne_true)).trans (if_pos hparent)

theorem freedSlot_other {w : Window} (hroot : t[root].occ = .revoking w root) (hp : w.parent = some p)
    (h : t[i].coveredBy root = false) (hi : i ≠ p) : freedSlot t root i = t[i] := by
  have hparent : (t[root].occ.window?.bind Window.parent) ≠ some i := by
    rw [window_of_revoking hroot]
    exact fun he => hi (Option.some.inj (he.symm.trans hp))
  exact (if_neg (by rw [h]; exact Bool.false_ne_true)).trans (if_neg hparent)

end Freed

theorem freeSubtree_frame (s : State) (pos : Nat) (e : RevEntry) : s.freeSubtree pos e =
    { s with
      windows := (s.freeSubtree pos e).windows, revocations := (s.freeSubtree pos e).revocations
      bank := (s.freeSubtree pos e).bank } := by
  simp only [State.freeSubtree, State.fillAll]

theorem freeSubtree_revocations (s : State) (pos : Nat) (e : RevEntry) :
    (s.freeSubtree pos e).revocations = s.revocations.take pos ++ s.revocations.drop (pos + 1) :=
  List.eraseIdx_eq_take_drop_succ _ _

theorem freeSubtree_window (s : State) (pos : Nat) (e : RevEntry) (i : SlotIx) :
    (s.freeSubtree pos e).windows[i] = freedSlot s.windows e.root.index i := by
  rw [freeSubtree_windows, ofFn_get]

/-- Settles O50. -/
theorem subtreeFreeReleasesDrainedSubtree : Obligations.SubtreeFreeReleasesDrainedSubtree := by
  unfold Obligations.SubtreeFreeReleasesDrainedSubtree
  refine ⟨fun t root i => ⟨coveredBy_iff, drainSum_eq t root⟩, fun s pos hr => ?_⟩
  rw [exec_subtreeFree pos hr]
  unfold State.testDrain
  refine ⟨fun e w p he hdrained hroot hp hparent => ⟨s.freeSubtree pos.val e, ?_, freeSubtree_frame s pos e,
    fun i => ?_, ?_, freeSubtree_revocations s pos e, ?_⟩, fun e he hheld => ?_, fun hnone => ?_⟩
  · rw [he]
    exact congrArg _ (if_pos hdrained)
  · rw [freeSubtree_window]
    exact ⟨freedSlot_covered, freedSlot_other hroot hp⟩
  · rw [freeSubtree_window]
    exact freedSlot_parent hroot hp hparent
  · rw [OwnerLaw.freeSubtree_bank, coveredSlots, ← List.countP_eq_length_filter]
  · rw [he]
    exact congrArg _ (if_neg hheld)
  · rw [List.getElem?_eq_none hnone]

end Sys2Proof.Machine

/-! SUPPORT. The read data store reaches nobody but through the beats of DONE READs with OKAY (R84, R85): no change but
a response's and a delivery's looks at it, and no change makes an entry own more beats but a response. -/

namespace Sys2Proof.Machine

/- One proof after another: a thread for each at once is more than a machine holds. -/
set_option Elab.async false

/-! ### Changes that neither look at the store nor write it -/

/-- The same state over another read data store. -/
def State.withStore (s : State) (o : Vector (Vector Beat 16) 32) : State :=
  { s with readStore := o }

theorem withStore_ite {p : Prop} [Decidable p] {a b a' b' : State} {o : Vector (Vector Beat 16) 32}
    (ha : a' = a.withStore o) (hb : b' = b.withStore o) :
    (if p then a' else b') = (if p then a else b).withStore o := by
  split <;> assumption

/-- An event, out of reset and in it. -/
theorem withStore_event {effect : State → State} {s t : State} {o : Vector (Vector Beat 16) 32}
    (h : effect (s.withStore o) = (effect s).withStore o) (hx : whenOutOfReset s effect = .next t) :
    whenOutOfReset (s.withStore o) effect = .next (t.withStore o) := by
  cases hr : s.resetn with
  | true =>
    rw [whenOutOfReset_high effect hr] at hx
    rw [whenOutOfReset_high (s := s.withStore o) effect hr, h]
    cases hx
    rfl
  | false =>
    rw [whenOutOfReset_low effect hr] at hx
    rw [whenOutOfReset_low (s := s.withStore o) effect hr]
    cases hx
    rfl

def Blind (F : State → State) : Prop :=
  ∀ (s : State) (o : Vector (Vector Beat 16) 32), F (s.withStore o) = (F s).withStore o

namespace Blind

theorem comp {F G : State → State} (hG : Blind G) (hF : Blind F) : Blind fun s => G (F s) :=
  fun s o => (congrArg G (hF s o)).trans (hG (F s) o)

/-! ### Time -/

theorem endHold (dnReady : Bool) : Blind (·.endHold dnReady) := by
  intro s o
  show (s.withStore o).endHold dnReady = (s.endHold dnReady).withStore o
  unfold State.endHold
  rw [show (s.withStore o).port = s.port from rfl]
  cases s.port with
  | holding c => exact withStore_ite (withStore_ite rfl rfl) rfl
  | _ => rfl

theorem settle : Blind State.settle := by
  intro s o
  unfold State.settle
  rw [show (s.withStore o).endHold false = (s.endHold false).withStore o from endHold false s o]
  rfl

theorem ticks : Blind fun s => s.settle.tickNow :=
  comp (fun _ _ => rfl) settle

/-! ### Requests and responses -/

theorem arrive (n : Initiator) (r : Request) : Blind (·.arrive n r) :=
  fun _ _ => withStore_ite rfl rfl

theorem takeFrom (n : Initiator) (u : Tag) (r : Request) : Blind (·.takeFrom n u r) := by
  intro s o
  show (s.withStore o).takeFrom n u r = (s.takeFrom n u r).withStore o
  unfold State.takeFrom
  rw [show (s.withStore o).judge n r = s.judge n r from rfl]
  cases s.judge n r with
  | admitted ix => rfl
  | refuse kind window =>
    dsimp only
    unfold State.refuse
    rw [show ((s.withStore o).leaveLane n).contexts = (s.leaveLane n).contexts from rfl]
    cases (s.leaveLane n).contexts[n].quarantines <;> rfl

theorem takeOne : Blind State.takeOne := by
  intro s o
  unfold State.takeOne
  rw [show (s.withStore o).grantedLane = s.grantedLane from rfl,
    show (s.withStore o).lowestFreeTag = s.lowestFreeTag from rfl]
  cases s.grantedLane with
  | none => rfl
  | some n =>
    cases s.lowestFreeTag with
    | none => rfl
    | some u =>
      dsimp only
      rw [show (s.withStore o).lanes = s.lanes from rfl]
      cases s.lanes[n] with
      | nil => rfl
      | cons r rest => exact takeFrom n u r s o

theorem issue : Blind State.issue := by
  intro s o
  unfold State.issue
  rw [show (s.withStore o).offered = s.offered from rfl, show (s.withStore o).forward = s.forward from rfl]
  cases s.offered with
  | none => rfl
  | some q =>
    cases s.forward with
    | nil => rfl
    | cons u rest =>
      dsimp only
      rw [show (s.withStore o).tracker = s.tracker from rfl]
      cases s.tracker[u] <;> rfl

theorem testDrain (pos : Nat) : Blind (·.testDrain pos) := by
  intro s o
  show (s.withStore o).testDrain pos = (s.testDrain pos).withStore o
  unfold State.testDrain
  rw [show (s.withStore o).revocations = s.revocations from rfl]
  cases s.revocations[pos]? with
  | none => rfl
  | some e => exact withStore_ite (by simp only [State.freeSubtree]; rfl) rfl

theorem portReady : Blind fun s => if s.port = .awaitingReady then s.becomeReady else s :=
  fun _ _ => withStore_ite rfl rfl

/-! ### The link -/

theorem csRises (a : Session) : Blind (·.csRises a) := by
  intro s o
  show (s.withStore o).csRises a = (s.csRises a).withStore o
  unfold State.csRises
  rcases a.kind with _ | bytes | ⟨_ | k, clocked⟩ | _ <;> rfl

theorem sclkFalls (a : Session) : Blind (·.sclkFalls a) := by
  intro s o
  show (s.withStore o).sclkFalls a = (s.sclkFalls a).withStore o
  unfold State.sclkFalls
  cases a.kind <;> rfl

theorem servedEdge (e : SpiEdge) : Blind (·.servedEdge e) := by
  intro s o
  show (s.withStore o).servedEdge e = (s.servedEdge e).withStore o
  unfold State.servedEdge
  rw [show (s.withStore o).session = s.session from rfl]
  cases e with
  | csFall => cases s.session <;> rfl
  | sclkRise mosi =>
    cases s.session with
    | none => rfl
    | some a => exact withStore_ite rfl rfl
  | sclkFall =>
    cases s.session with
    | none => rfl
    | some a => exact withStore_ite (sclkFalls a s o) rfl
  | csRise =>
    cases s.session with
    | none => rfl
    | some a => exact csRises a s o

theorem resetEdge (e : SpiEdge) : Blind (·.resetEdge e) := by
  intro s o
  show (s.withStore o).resetEdge e = (s.resetEdge e).withStore o
  unfold State.resetEdge
  rw [show (s.withStore o).session = s.session from rfl]
  cases e with
  | csFall => cases s.session <;> rfl
  | sclkRise mosi =>
    cases s.session with
    | none => rfl
    | some a => exact withStore_ite rfl rfl
  | sclkFall =>
    cases s.session with
    | none => rfl
    | some a => exact withStore_ite rfl rfl
  | csRise => rfl

theorem spiEdge (e : SpiEdge) : Blind (·.spiEdge e) := by
  intro s o
  show (s.withStore o).spiEdge e = (s.spiEdge e).withStore o
  unfold State.spiEdge
  exact withStore_ite (servedEdge e s o) (resetEdge e s o)

theorem runEdges (own : State → SpiEdge → Bool) (hown : ∀ s o e, own (s.withStore o) e = own s e)
    (edges : List SpiEdge) : Blind (Machine.runEdges own edges) := by
  induction edges with
  | nil => exact fun _ _ => rfl
  | cons e rest ih =>
    intro s o
    rw [Machine.runEdges, Machine.runEdges, hown]
    exact withStore_ite ((congrArg _ (spiEdge e s o)).trans (ih _ o)) rfl

/-! ### The controller's commands -/

variable (k : RespIx) (p : List Byte)

theorem deriveBody : Blind (Machine.deriveBody k p) := by
  intro s o
  unfold Machine.deriveBody
  cases deriveArgs p with
  | none => rfl
  | some a =>
    dsimp only
    rw [show deriveChecks (s.withStore o) a = deriveChecks s a from rfl]
    cases deriveChecks s a <;> rfl

theorem shrinkBody : Blind (Machine.shrinkBody k p) := by
  intro s o
  unfold Machine.shrinkBody
  cases shrinkArgs p with
  | none => rfl
  | some a =>
    dsimp only
    rw [show shrinkChecks (s.withStore o) a = shrinkChecks s a from rfl]
    cases shrinkChecks s a <;> rfl

theorem revokeBody : Blind (Machine.revokeBody k p) := by
  intro s o
  unfold Machine.revokeBody
  rw [show revokeChecks (s.withStore o) (handleAt p 0) = revokeChecks s (handleAt p 0) from rfl]
  cases revokeChecks s (handleAt p 0) with
  | error _ => rfl
  | ok g =>
    simp only [State.acceptRevoke]
    rfl

theorem bind (n : Initiator) (target : Option Handle) : Blind (·.bind n k target) := by
  intro s o
  show (s.withStore o).bind n k target = (s.bind n k target).withStore o
  unfold State.bind
  rw [show (s.withStore o).contexts = s.contexts from rfl]
  cases s.contexts[n].rebind.pending? with
  | some old => rfl
  | none => exact withStore_ite rfl (by unfold State.stage; exact withStore_ite rfl rfl)

theorem bindDefaultBody : Blind (Machine.bindDefaultBody k p) := by
  intro s o
  unfold Machine.bindDefaultBody
  cases initiatorAt p 0 with
  | none => rfl
  | some n =>
    dsimp only
    rw [show bindChecks (s.withStore o) n (bindingOf p) = bindChecks s n (bindingOf p) from rfl]
    cases bindChecks s n (bindingOf p) with
    | error _ => rfl
    | ok target => exact bind k n target s o

theorem setInitiatorBody : Blind (Machine.setInitiatorBody k p) := by
  intro s o
  unfold Machine.setInitiatorBody
  cases initiatorAt p 0 with
  | none => rfl
  | some n => cases initStateOf (byteAt p 1) <;> cases policyOf (byteAt p 2) <;> rfl

theorem resetPortBody : Blind (Machine.resetPortBody k p) := by
  intro s o
  unfold Machine.resetPortBody
  rw [show (s.withStore o).port = s.port from rfl]
  by_cases hport : s.port = .ready
  · rw [if_pos hport, if_pos hport]
    unfold State.startReset
    rfl
  · rw [if_neg hport, if_neg hport]
    rfl

theorem setControlBody : Blind (Machine.setControlBody k p) := by
  intro s o
  unfold Machine.setControlBody
  cases settingsOf p <;> rfl

theorem readWindowBody : Blind (Machine.readWindowBody k p) := by
  intro s o
  unfold Machine.readWindowBody
  cases slotIxAt p 0 <;> rfl

theorem readInitiatorBody : Blind (Machine.readInitiatorBody k p) := by
  intro s o
  unfold Machine.readInitiatorBody
  cases initiatorAt p 0 <;> rfl

theorem readEventBody : Blind (Machine.readEventBody k p) := by
  intro s o
  unfold Machine.readEventBody
  rw [show (s.withStore o).log = s.log from rfl]
  cases s.log.records <;> rfl

theorem tableBody (code : CommandCode) : Blind (Machine.tableBody code k p) := by
  cases code with
  | derive => exact deriveBody k p
  | shrink => exact shrinkBody k p
  | revoke => exact revokeBody k p
  | bindDefault => exact bindDefaultBody k p
  | setInitiator => exact setInitiatorBody k p
  | resetMemoryPort => exact resetPortBody k p
  | setControl => exact setControlBody k p
  | readWindow => exact readWindowBody k p
  | readInitiator => exact readInitiatorBody k p
  | readEvent => exact readEventBody k p
  | readStatus => exact fun _ _ => rfl

/-- A command of the controller, with its take. -/
theorem command (code : CommandCode) {body : RespIx → List Byte → State → State} (h : ∀ k p, Blind (body k p))
    {s t : State} (o : Vector (Vector Beat 16) 32) (hx : runCommand code body s = .next t) :
    runCommand code body (s.withStore o) = .next (t.withStore o) := by
  rcases runCommand_cases code body s with ⟨f, rest, k, ht, hc, he⟩ | he <;> rw [he] at hx <;> cases hx
  · rw [runCommand_takes (s := s.withStore o) body ⟨ht.running, ht.head, ht.empty, ht.lowest⟩ hc]
    exact congrArg _ (h k f.payload (s.deferred f rest k) o)
  · rcases runCommand_cases code body (s.withStore o) with ⟨f, rest, k, ht, hc, he'⟩ | he'
    · rw [runCommand_takes (s := s) body ⟨ht.running, ht.head, ht.empty, ht.lowest⟩ hc] at he
      have hsame : body k f.payload (s.deferred f rest k) = s := by injection he
      rw [he']
      exact congrArg _ ((h k f.payload (s.deferred f rest k) o).trans (congrArg (State.withStore · o) hsame))
    · exact he'

end Blind

/-! ### The beats an entry owns -/

/-- Neither of RESETN's two commands, and no response: the commands that keep the store. -/
structure KeepsStore (c : Instr) : Prop where
  noAssert : c ≠ .resetnAssert
  noRelease : ∀ bootEn bootId csLow, c ≠ .resetnRelease bootEn bootId csLow
  noResponse : ∀ u status data, c ≠ .downstreamResponse u status data

/-- No entry comes to own more beats. -/
def OwnsNoMore (s t : State) : Prop :=
  ∀ τ : Tag, t.tracker[τ].ownedBeats ≤ s.tracker[τ].ownedBeats

namespace OwnsNoMore

variable {s t : State}

theorem of_eq (h : t.tracker = s.tracker := by rfl) : OwnsNoMore s t :=
  fun τ => by rw [h]

theorem of_set {u : Tag} {e : Entry} (he : e.ownedBeats = 0) (h : t.tracker = s.tracker.set u e := by rfl) :
    OwnsNoMore s t := by
  intro τ
  rw [h, entry_set]
  split
  · omega
  · exact le_rfl

theorem of_map {g : Entry → Entry} (hg : ∀ e, (g e).ownedBeats ≤ e.ownedBeats) (h : t.tracker = s.tracker.map g) :
    OwnsNoMore s t := by
  intro τ
  rw [h, OutcomeKept.map_get]
  exact hg _

theorem trans {u : State} (h₁ : OwnsNoMore s t) (h₂ : OwnsNoMore t u) : OwnsNoMore s u :=
  fun τ => (h₂ τ).trans (h₁ τ)

theorem expire (e : Entry) : e.expire.ownedBeats ≤ e.ownedBeats := by
  unfold Entry.expire
  split
  · exact Nat.zero_le _
  · exact le_rfl

theorem tick (setting : Nat) (e : Entry) : (e.tick setting).ownedBeats ≤ e.ownedBeats := by
  unfold Entry.tick
  split <;> exact le_rfl

theorem portReset (e : Entry) : e.portReset.ownedBeats ≤ e.ownedBeats := by
  cases e with
  | done x o => exact le_rfl
  | _ => exact Nat.zero_le _

theorem afterDelivery (e : Entry) : e.afterDelivery.ownedBeats = 0 := by
  unfold Entry.afterDelivery
  split <;> rfl

/-- Every change but a response. -/
theorem effects : Effects s fun c t => KeepsStore c → OwnsNoMore s t where
  idle _ _ := of_eq
  asserts := fun h => absurd rfl h.noAssert
  releases _ _ _ _ := fun h => absurd rfl (h.noRelease _ _ _)
  ticks _ := (of_map (t := s.settle) expire (settle_tracker s)).trans (of_map (tick _) (tickNow_tracker s.settle))
  arrives _ _ _ _ _ := of_eq
  admits _ u _ _ _ _ _ _ _ _ := of_set (u := u) rfl
  refuses n u r _ kind window _ _ _ _ _ :=
    of_set (u := u) rfl (refuse_tracker (s.leaveLane n) n r u kind window).1
  issues u _ _ _ _ _ _ _ := of_set (u := u) rfl
  completes _ _ _ _ _ _ _ _ := fun h => absurd rfl (h.noResponse _ _ _)
  late _ _ _ _ _ _ _ := fun h => absurd rfl (h.noResponse _ _ _)
  strays _ _ _ := fun h => absurd rfl (h.noResponse _ _ _)
  responsesExpire _ := of_map expire rfl
  delivers _ _ n u _ _ _ _ _ _ := of_set (u := u) (afterDelivery _) (deliverHead_tracker s n u).1
  drainsExpire _ := of_eq
  stallsExpire _ := of_eq
  frees pos e _ _ _ := of_eq (s.freeSubtree_tracker pos.val e)
  holdEnds dnReady _ := of_eq (by rw [endHold_eq])
  becomesReady _ _ := of_eq
  commandEdges edges _ := of_eq (runEdges_linkOnly _ edges s).tracker
  typeEdges _ := of_eq (runEdges_linkOnly _ _ s).tracker
  fetchEdges edges _ := of_eq (runEdges_linkOnly _ edges s).tracker
  answers _ _ _ _ _ _ _ := of_eq
  derives _ _ _ _ _ _ _ _ _ _ := of_eq
  shrinks _ _ _ _ _ _ _ _ _ := of_eq
  accepts f rest k g _ _ _ _ := of_eq ((s.deferred f rest k).acceptRevoke_tracker g k)
  replaces _ _ _ _ _ _ _ _ _ _ _ := of_eq
  binds _ _ _ _ _ _ _ _ _ _ _ := of_eq
  stages f rest k m target _ _ _ _ _ _ := of_eq (OutcomeKept.stage_tracker (s.deferred f rest k) m k target)
  setsInitiator _ _ _ _ _ _ _ _ _ := of_eq
  startsReset f rest k _ _ _ _ := of_map (g := Entry.portReset) portReset (by unfold State.startReset; rfl)
  joinsReset _ _ _ _ _ _ _ := of_eq
  setsControl _ _ _ _ _ _ _ _ := of_eq
  readsEvent _ _ _ _ _ _ _ _ _ := of_eq

end OwnsNoMore

/-! ### Two runs -/

/-- The command run over two stores that agree: the same step in everything but the store, and they agree again. -/
def Invisible (c : Instr) (s : State) (o : Vector (Vector Beat 16) 32) : Prop :=
  ∃ t o', exec c s = .next t ∧ exec c (s.withStore o) = .next (t.withStore o') ∧ t.storesAgree o'

namespace Invisible

variable {c : Instr} {s : State} {o : Vector (Vector Beat 16) 32}

/-- A command that keeps the store and steps alike over any two steps alike over two that agree. -/
theorem of_blind (h : s.storesAgree o) (hc : KeepsStore c)
    (hblind : ∀ t o, s.storesAgree o → exec c s = .next t → exec c (s.withStore o) = .next (t.withStore o)) :
    Invisible c s o := by
  obtain ⟨t, hx⟩ := exec_answers c s
  have hkeeps : t.readStore = s.readStore := by
    have hself := hblind t s.readStore (fun _ _ _ => rfl) hx
    rw [show s.withStore s.readStore = s from rfl, hx] at hself
    have hsame : t = t.withStore s.readStore := by injection hself
    exact (congrArg State.readStore hsame).trans rfl
  have howns : OwnsNoMore s t := OwnsNoMore.effects.exec hx hc
  exact ⟨t, o, hx, hblind t o h hx, fun τ k hk => hkeeps ▸ h τ k (lt_of_lt_of_le hk (howns τ))⟩

theorem of_event (h : s.storesAgree o) (hc : KeepsStore c) {effect : State → State} (heffect : Blind effect)
    (hx : ∀ s, exec c s = whenOutOfReset s effect) : Invisible c s o :=
  of_blind h hc fun _ o _ ht => (hx _).trans (withStore_event (heffect s o) ((hx s).symm.trans ht))

theorem of_command (h : s.storesAgree o) (code : CommandCode) (hc : KeepsStore (tableCommand code)) :
    Invisible (tableCommand code) s o :=
  of_blind h hc fun _ o _ ht => by
    rw [exec_tableCommand] at ht ⊢
    exact Blind.command code (fun k p => Blind.tableBody k p code) o ht

theorem of_link (h : s.storesAgree o) (hc : KeepsStore c) {F : State → State} (hF : Blind F)
    (hx : ∀ s, exec c s = .next (F s)) : Invisible c s o :=
  of_blind h hc fun t o _ ht => by
    rw [hx] at ht ⊢
    cases ht
    exact congrArg _ (hF s o)

/-! ### Responses -/

/-- A change that keeps the store and every other entry, and leaves its own with no beats. -/
theorem agree_of_set (h : s.storesAgree o) {t : State} {u : Tag} {e : Entry} (hs : t.readStore = s.readStore)
    (ht : t.tracker = s.tracker.set u e) (he : e.ownedBeats = 0) : t.storesAgree o :=
  fun τ k hk => hs ▸ h τ k (lt_of_lt_of_le hk (OwnsNoMore.of_set he ht τ))

theorem ownedBeats_done_read {x : Txn} (h : x.kind = .read) : (Entry.done x .okay).ownedBeats = beatCount x.len :=
  if_pos h

theorem ownedBeats_done_write {x : Txn} (h : x.kind = .write) : (Entry.done x .okay).ownedBeats = 0 :=
  if_neg (by rw [h]; exact nofun)

theorem length_of_responseOk {x : Txn} {status : DnStatus} {data : List Beat} (h : responseOk x status data = true)
    (hkind : x.kind = .read) : data.length = beatCount x.len := by
  simpa [responseOk, hkind] using ((Bool.and_eq_true _ _).mp h).2

/-- A response writes its beats from its data alone, and owns no others. -/
theorem agree_of_read (h : s.storesAgree o) {t : State} {u : Tag} {x : Txn} {data : List Beat}
    (hkind : x.kind = .read) (hlen : data.length = beatCount x.len)
    (hs : t.readStore = updAt s.readStore u (writeBeats · data))
    (ht : t.tracker = s.tracker.set u (.done x .okay)) : t.storesAgree (updAt o u (writeBeats · data)) := by
  intro τ k hk
  rw [ht, entry_set] at hk
  rw [hs, updAt_get, updAt_get]
  by_cases hτ : τ = u
  · rw [if_pos hτ, ownedBeats_done_read hkind, ← hlen] at hk
    rw [if_pos hτ, if_pos hτ, writeBeats_get, writeBeats_get, List.getD_eq_getElem _ _ hk, List.getD_eq_getElem _ _ hk]
  · rw [if_neg hτ] at hk
    rw [if_neg hτ, if_neg hτ]
    exact h τ k hk

theorem timely (h : s.storesAgree o) (u : Tag) (x : Txn) (status : DnStatus) (data : List Beat) :
    ∃ o', (s.withStore o).timely u x status data = (s.timely u x status data).withStore o' ∧
      (s.timely u x status data).storesAgree o' := by
  cases hok : responseOk x status data with
  | false =>
    rw [timely_error hok, timely_error hok]
    exact ⟨o, rfl, agree_of_set (u := u) (e := .done x .memoryError) h rfl rfl rfl⟩
  | true =>
    cases hkind : x.kind with
    | write =>
      rw [timely_write hok hkind, timely_write hok hkind]
      exact ⟨o, rfl, agree_of_set (u := u) (e := .done x .okay) h rfl rfl (ownedBeats_done_write hkind)⟩
    | read =>
      rw [timely_read hok hkind, timely_read hok hkind]
      exact ⟨_, rfl, agree_of_read (u := u) h hkind (length_of_responseOk hok hkind) rfl rfl⟩

theorem respond (h : s.storesAgree o) (u : Tag) (status : DnStatus) (data : List Beat) :
    ∃ o', (s.withStore o).respond u status data = (s.respond u status data).withStore o' ∧
      (s.respond u status data).storesAgree o' := by
  unfold State.respond
  rw [show (s.withStore o).port = s.port from rfl, show (s.withStore o).tracker = s.tracker from rfl]
  by_cases hport : s.port = .ready
  · rw [if_pos hport, if_pos hport]
    rcases s.tracker[u] with _ | _ | _ | ⟨x, e, d⟩ | _ | ⟨x, _ | _⟩ | x
    case issued => exact timely h u x status data
    case expired.true => exact ⟨o, rfl, agree_of_set (u := u) (e := .expired x false) h rfl rfl rfl⟩
    case orphaned => exact ⟨o, rfl, agree_of_set (u := u) (e := .free) h rfl rfl rfl⟩
    all_goals exact ⟨o, rfl, h⟩
  · rw [if_neg hport, if_neg hport]
    exact ⟨o, rfl, h⟩

theorem response (h : s.storesAgree o) (u : Tag) (status : DnStatus) (data : List Beat) :
    Invisible (.downstreamResponse u status data) s o := by
  cases hr : s.resetn with
  | true =>
    obtain ⟨o', hstep, hagree⟩ := respond h u status data
    exact ⟨_, o', exec_response u status data hr,
      (exec_response (s := s.withStore o) u status data hr).trans (congrArg _ hstep), hagree⟩
  | false =>
    exact ⟨s, o, whenOutOfReset_low (·.respond u status data) hr,
      whenOutOfReset_low (s := s.withStore o) (·.respond u status data) hr, h⟩

/-! ### Deliveries -/

/-- What goes up is read from the beats owned alone (R84). -/
theorem Entry.owns_of_okay {e : Entry} {len : Fin 16} (hshape : e.shape = some (.read, len)) (hok : e.status = .okay) :
    e.ownedBeats = beatCount len := by
  cases e with
  | done x outcome =>
    cases outcome with
    | okay =>
      obtain ⟨hkind, rfl⟩ := Prod.mk.inj (Option.some.inj hshape)
      exact ownedBeats_done_read hkind
    | _ => cases hok
  | _ => cases hok

theorem response_congr {e : Entry} {slot slot' : Vector Beat 16}
    (h : ∀ k : Fin 16, k.val < e.ownedBeats → slot[k] = slot'[k]) : e.response slot = e.response slot' := by
  unfold Entry.response
  congr 1
  split
  next len hshape =>
    by_cases hok : e.status = .okay
    · rw [if_pos hok, if_pos hok]
      refine List.ext_getElem? fun k => ?_
      rw [List.getElem?_take, List.getElem?_take]
      split
      next hk =>
        have hk16 : k < 16 := lt_of_lt_of_le hk (by unfold beatCount; omega)
        have hbeat : slot[k] = slot'[k] := h ⟨k, hk16⟩ (Entry.owns_of_okay hshape hok ▸ hk)
        rw [Vector.getElem?_toList, Vector.getElem?_toList, Vector.getElem?_eq_getElem hk16,
          Vector.getElem?_eq_getElem hk16, hbeat]
      next => rfl
    · rw [if_neg hok, if_neg hok]
  next => rfl

theorem deliverHead (h : s.storesAgree o) (n : Initiator) (u : Tag) :
    (s.withStore o).deliverHead n u = (s.deliverHead n u).withStore o := by
  have hup : (s.withStore o).handUp n u = (s.handUp n u).withStore o := by
    unfold State.handUp
    rw [show (s.withStore o).tracker = s.tracker from rfl, show (s.withStore o).readStore = o from rfl,
      response_congr (h u)]
    rfl
  unfold State.deliverHead
  rw [hup]
  dsimp only
  rw [show ((s.handUp n u).withStore o).commitDue n = (s.handUp n u).commitDue n from rfl]
  cases (s.handUp n u).commitDue n <;> rfl

theorem deliverOne (h : s.storesAgree o) (accepting : BitVec 8) :
    (s.withStore o).deliverOne accepting = (s.deliverOne accepting).withStore o := by
  unfold State.deliverOne
  rw [show (s.withStore o).grantedResponse accepting = s.grantedResponse accepting from rfl]
  cases s.grantedResponse accepting with
  | none => rfl
  | some n =>
    dsimp only
    rw [show (s.withStore o).deliveryLists = s.deliveryLists from rfl]
    cases s.deliveryLists[n] with
    | nil => rfl
    | cons u rest => exact deliverHead h n u

theorem delivery (h : s.storesAgree o) (accepting : BitVec 8) : Invisible (.delivery accepting) s o :=
  of_blind h ⟨nofun, nofun, nofun⟩ fun _ _ h ht =>
    withStore_event (effect := (·.deliverOne accepting)) (deliverOne h accepting) ht

theorem stagedCommit (h : s.storesAgree o) (accepting : BitVec 8) : Invisible (.stagedCommit accepting) s o :=
  of_blind h ⟨nofun, nofun, nofun⟩ fun _ _ h ht =>
    withStore_event (effect := fun s => if s.grantCommits accepting then s.deliverOne accepting else s)
      (withStore_ite (deliverOne h accepting) rfl) ht

/-! ### RESETN -/

/-- A release leaves nothing of the store before it. -/
theorem releaseReset_fresh (o : Vector (Vector Beat 16) 32) (hr : s.resetn = false) (bootEn : Bool)
    (bootId : Initiator) (csLow : Bool) :
    (s.withStore o).releaseReset bootEn bootId csLow = s.releaseReset bootEn bootId csLow := by
  have hlow : ¬s.resetn = true := by rw [hr]; exact Bool.false_ne_true
  unfold State.releaseReset
  rw [if_neg hlow, if_neg (show ¬(s.withStore o).resetn = true from hlow),
    show (s.withStore o).resetEdge (if csLow then .csFall else .csRise) =
      (s.resetEdge (if csLow then .csFall else .csRise)).withStore o from Blind.resetEdge _ s o]
  rfl

theorem resetnRelease (h : s.storesAgree o) (bootEn : Bool) (bootId : Initiator) (csLow : Bool) :
    Invisible (.resetnRelease bootEn bootId csLow) s o := by
  cases hr : s.resetn with
  | true =>
    have hidle (s : State) (hr : s.resetn = true) : exec (.resetnRelease bootEn bootId csLow) s = .next s :=
      congrArg _ (if_pos hr)
    exact ⟨s, o, hidle s hr, hidle (s.withStore o) hr, h⟩
  | false =>
    exact ⟨s.releaseReset bootEn bootId csLow, (s.releaseReset bootEn bootId csLow).readStore, rfl,
      congrArg Host.Outcome.next (releaseReset_fresh o hr bootEn bootId csLow), fun _ _ _ => rfl⟩

end Invisible

/-- Settles O35: the commands that do not look at the store, the response that writes it, and the delivery that reads
the beats owned. -/
theorem unownedReadDataIsInvisible : Obligations.UnownedReadDataIsInvisible := by
  unfold Obligations.UnownedReadDataIsInvisible
  intro c s o h
  show Invisible c s o
  cases c with
  | resetnAssert => exact ⟨s.assertReset, s.assertReset.readStore, rfl, rfl, fun _ _ _ => rfl⟩
  | resetnRelease bootEn bootId csLow => exact .resetnRelease h bootEn bootId csLow
  | tick => exact .of_event h ⟨nofun, nofun, nofun⟩ Blind.ticks fun _ => rfl
  | upstreamRequest n r => exact .of_event h ⟨nofun, nofun, nofun⟩ (Blind.arrive n r) fun _ => rfl
  | take => exact .of_event h ⟨nofun, nofun, nofun⟩ Blind.takeOne fun _ => rfl
  | downstreamAccept => exact .of_event h ⟨nofun, nofun, nofun⟩ Blind.issue fun _ => rfl
  | downstreamResponse u status data => exact .response h u status data
  | responseTimeout =>
    exact .of_event h ⟨nofun, nofun, nofun⟩ (effect := State.expireResponses) (fun _ _ => rfl) fun _ => rfl
  | delivery accepting => exact .delivery h accepting
  | stagedCommit accepting => exact .stagedCommit h accepting
  | drainTimerExpiry =>
    exact .of_event h ⟨nofun, nofun, nofun⟩ (effect := State.expireDrains) (fun _ _ => rfl) fun _ => rfl
  | stallTimerExpiry =>
    exact .of_event h ⟨nofun, nofun, nofun⟩ (effect := State.expireStalls) (fun _ _ => rfl) fun _ => rfl
  | subtreeFree pos => exact .of_event h ⟨nofun, nofun, nofun⟩ (Blind.testDrain pos.val) fun _ => rfl
  | holdEnd dnReady => exact .of_event h ⟨nofun, nofun, nofun⟩ (Blind.endHold dnReady) fun _ => rfl
  | portReady => exact .of_event h ⟨nofun, nofun, nofun⟩ Blind.portReady fun _ => rfl
  | commandFrame edges =>
    exact .of_link h ⟨nofun, nofun, nofun⟩ (Blind.runEdges State.ownsCommand (fun _ _ _ => rfl) edges) fun _ => rfl
  | fetchSelect =>
    exact .of_link h ⟨nofun, nofun, nofun⟩ (F := fun s => runEdges (fun _ _ => true) s.typeEdges s)
      (fun s o => Blind.runEdges (fun _ _ => true) (fun _ _ _ => rfl) s.typeEdges s o) fun _ => rfl
  | fetchEnd edges =>
    exact .of_link h ⟨nofun, nofun, nofun⟩ (Blind.runEdges State.ownsFetch (fun _ _ _ => rfl) edges) fun _ => rfl
  | derive => exact .of_command h .derive ⟨nofun, nofun, nofun⟩
  | shrink => exact .of_command h .shrink ⟨nofun, nofun, nofun⟩
  | revoke => exact .of_command h .revoke ⟨nofun, nofun, nofun⟩
  | bindDefault => exact .of_command h .bindDefault ⟨nofun, nofun, nofun⟩
  | setInitiator => exact .of_command h .setInitiator ⟨nofun, nofun, nofun⟩
  | resetMemoryPort => exact .of_command h .resetMemoryPort ⟨nofun, nofun, nofun⟩
  | setControl => exact .of_command h .setControl ⟨nofun, nofun, nofun⟩
  | readWindow => exact .of_command h .readWindow ⟨nofun, nofun, nofun⟩
  | readInitiator => exact .of_command h .readInitiator ⟨nofun, nofun, nofun⟩
  | readEvent => exact .of_command h .readEvent ⟨nofun, nofun, nofun⟩
  | readStatus => exact .of_command h .readStatus ⟨nofun, nofun, nofun⟩

end Sys2Proof.Machine

/-! SUPPORT. RESETN (R30, R54, R55, R90, R154, R164, R184, R191): what each of its two edges leaves, and what happens
between them. -/

namespace Sys2Proof.Machine

/- One proof after another: a thread for each at once is more than a machine holds. -/
set_option Elab.async false

/-! ### The reset contents -/

theorem resetWindows_zero : resetWindows[(0 : SlotIx)] = ⟨0#8, .live rootWindow⟩ := by
  rw [resetWindows_get, if_pos rfl]

theorem reset_alert : State.reset.alert = false := by
  decide +kernel

theorem reset_statusByte : State.reset.statusByte = 0x00#8 := by
  decide +kernel

/-- Settles O13. -/
theorem resetnAssertClearsEveryBlock : Obligations.ResetnAssertClearsEveryBlock := by
  unfold Obligations.ResetnAssertClearsEveryBlock
  intro s
  exact ⟨s.assertReset, rfl, rfl, fun n => ⟨replicate_get _ n, replicate_get _ n⟩, rfl, rfl, fun τ => replicate_get _ τ,
    fun i hi => (resetWindows_get i).trans (if_neg hi), resetWindows_zero, fun n => replicate_get _ n, rfl, rfl,
    rfl, rfl, rfl, rfl, rfl, rfl, rfl, rfl, fun h => congrArg (Option.map Session.abandon) h,
    fun _ h => congrArg (Option.map Session.abandon) h, rfl, fun k => replicate_get _ k, rfl, reset_alert, rfl, rfl⟩

/-! ### The release -/

theorem releaseReset_low {s : State} (bootEn : Bool) (bootId : Initiator) (csLow : Bool) (hr : s.resetn = false) :
    s.releaseReset bootEn bootId csLow =
      { (s.resetEdge (if csLow then .csFall else .csRise)).assertReset with
        resetn := true
        contexts := Vector.ofFn (bootContext bootEn bootId) } :=
  if_neg (by rw [hr]; exact Bool.false_ne_true)

theorem bootContext_eq (bootEn : Bool) (bootId n : Initiator) : bootContext bootEn bootId n =
    if bootEn = true ∧ n = bootId then ⟨.opened, .answer, some ⟨0, 0#8⟩, .none, 0⟩
    else ⟨.closed, .answer, none, .none, 0⟩ := by
  unfold bootContext
  refine if_congr ?_ rfl rfl
  rw [Bool.and_eq_true, beq_iff_eq, eq_comm (a := bootId)]

/-- While RESETN is low an edge of the wires leaves the rest of the part. -/
theorem resetEdge_frame (s : State) (e : SpiEdge) :
    (s.resetEdge e).pending = s.pending ∧ (s.resetEdge e).freeDraws = s.freeDraws := by
  unfold State.resetEdge
  cases e <;> cases s.session <;> dsimp only <;> (try split) <;> exact ⟨rfl, rfl⟩

theorem resetEdge_csFall_none {s : State} (h : s.session = none) :
    s.resetEdge .csFall = { s with session := some ⟨.ignored, false, [], 0#8, false⟩, miso := [] } := by
  rw [State.resetEdge, h]

theorem resetEdge_csFall_some {s : State} {a : Session} (h : s.session = some a) : s.resetEdge .csFall = s := by
  rw [State.resetEdge, h]

/-- Settles O14. -/
theorem resetnReleaseSamplesStraps : Obligations.ResetnReleaseSamplesStraps := by
  unfold Obligations.ResetnReleaseSamplesStraps
  refine fun s bootEn csLow bootId => ⟨fun hr => ⟨s.releaseReset bootEn bootId csLow, rfl, ?_⟩,
    fun hr => congrArg _ (if_pos hr)⟩
  obtain ⟨hpending, hdraws⟩ := resetEdge_frame s (if csLow then .csFall else .csRise)
  rw [releaseReset_low bootEn bootId csLow hr]
  refine ⟨fun n => ?_, fun h => ?_, fun h hs => ?_, fun h a hs => ?_, reset_statusByte, ?_⟩
  · exact (ofFn_get _ n).trans (bootContext_eq bootEn bootId n)
  · subst h
    exact ⟨rfl, rfl⟩
  · subst h
    rw [if_pos rfl, resetEdge_csFall_none hs]
    exact ⟨rfl, rfl⟩
  · subst h
    rw [if_pos rfl, resetEdge_csFall_some hs]
    exact ⟨congrArg (Option.map Session.abandon) hs, rfl⟩
  · simp only [State.assertReset, hpending, hdraws]

/-! ### While RESETN is low -/

theorem table_low {s : State} (code : CommandCode) (hr : s.resetn = false) : exec (tableCommand code) s = .next s := by
  rw [exec_tableCommand]
  rcases runCommand_cases code (tableBody code) s with ⟨f, rest, k, ht, -, -⟩ | he
  · exact absurd (hr.symm.trans ht.running) nofun
  · exact he

theorem exec_low {s : State} {c : Instr} (hr : s.resetn = false) (hassert : c ≠ .resetnAssert)
    (hrelease : ∀ bootEn bootId csLow, c ≠ .resetnRelease bootEn bootId csLow)
    (hcommand : ∀ edges, c ≠ .commandFrame edges) (hselect : c ≠ .fetchSelect) (hfetch : ∀ edges, c ≠ .fetchEnd edges) :
    exec c s = .next s := by
  cases c with
  | resetnAssert => exact absurd rfl hassert
  | resetnRelease bootEn bootId csLow => exact absurd rfl (hrelease bootEn bootId csLow)
  | commandFrame edges => exact absurd rfl (hcommand edges)
  | fetchSelect => exact absurd rfl hselect
  | fetchEnd edges => exact absurd rfl (hfetch edges)
  | tick => exact whenOutOfReset_low (fun s => s.settle.tickNow) hr
  | upstreamRequest n r => exact whenOutOfReset_low _ hr
  | take => exact whenOutOfReset_low _ hr
  | downstreamAccept => exact whenOutOfReset_low _ hr
  | downstreamResponse u status data => exact whenOutOfReset_low _ hr
  | responseTimeout => exact whenOutOfReset_low _ hr
  | delivery accepting => exact whenOutOfReset_low (·.deliverOne accepting) hr
  | stagedCommit accepting => exact whenOutOfReset_low _ hr
  | drainTimerExpiry => exact whenOutOfReset_low _ hr
  | stallTimerExpiry => exact whenOutOfReset_low _ hr
  | subtreeFree pos => exact whenOutOfReset_low (·.testDrain pos.val) hr
  | holdEnd dnReady => exact whenOutOfReset_low (·.endHold dnReady) hr
  | portReady => exact whenOutOfReset_low _ hr
  | derive => exact table_low .derive hr
  | shrink => exact table_low .shrink hr
  | revoke => exact table_low .revoke hr
  | bindDefault => exact table_low .bindDefault hr
  | setInitiator => exact table_low .setInitiator hr
  | resetMemoryPort => exact table_low .resetMemoryPort hr
  | setControl => exact table_low .setControl hr
  | readWindow => exact table_low .readWindow hr
  | readInitiator => exact table_low .readInitiator hr
  | readEvent => exact table_low .readEvent hr
  | readStatus => exact table_low .readStatus hr

/-- The wires alone have moved: no session is served, and MISO shifted zeros. -/
def WiresLow (s t : State) : Prop :=
  ∃ session zeros,
    (t = { s with session := session, miso := s.miso ++ List.replicate zeros false } ∨
      t = { s with session := session, miso := List.replicate zeros false }) ∧
    (session = s.session ∨ session = none ∨ ∃ a, session = some a ∧ a.kind = .ignored)

namespace WiresLow

theorem refl (s : State) : WiresLow s s :=
  ⟨s.session, 0, .inl (by rw [List.replicate_zero, List.append_nil]), .inl rfl⟩

theorem resetn {s t : State} (h : WiresLow s t) : t.resetn = s.resetn := by
  obtain ⟨_, _, rfl | rfl, _⟩ := h <;> rfl

theorem spiEdge {s t : State} (h : WiresLow s t) (hr : s.resetn = false) (e : SpiEdge) : WiresLow s (t.spiEdge e) := by
  obtain ⟨session', bits, hbits, he, hsession'⟩ := spiEdge_low e (h.resetn.trans hr)
  rw [he]
  obtain ⟨session, zeros, ht, hsession⟩ := h
  have hsame : session' = s.session ∨ session' = none ∨ ∃ a, session' = some a ∧ a.kind = .ignored := by
    rcases hsession' with h | h
    · rcases ht with rfl | rfl <;> exact h ▸ hsession
    · exact .inr h
  rcases hbits with rfl | rfl | rfl
  · exact ⟨session', zeros, by rcases ht with rfl | rfl <;> simp, hsame⟩
  · refine ⟨session', zeros + 1, ?_, hsame⟩
    rcases ht with rfl | rfl
    · exact .inl (by simp [List.replicate_succ'])
    · exact .inr (by simp [List.replicate_succ'])
  · exact ⟨session', 0, .inr (by rcases ht with rfl | rfl <;> rfl), hsame⟩

theorem runEdges {s : State} (hr : s.resetn = false) (own : State → SpiEdge → Bool) (edges : List SpiEdge) :
    WiresLow s (Machine.runEdges own edges s) :=
  runEdges_keeps (P := WiresLow s) (fun _ e h _ => h.spiEdge hr e) edges s (.refl s)

theorem answers {s t : State} {c : Instr} (h : WiresLow s t) (hx : exec c s = .next t) : ∃ session zeros,
    (exec c s = .next { s with session := session, miso := s.miso ++ List.replicate zeros false } ∨
      exec c s = .next { s with session := session, miso := List.replicate zeros false }) ∧
    (session = s.session ∨ session = none ∨ ∃ a, session = some a ∧ a.kind = .ignored) := by
  obtain ⟨session, zeros, ht, hsession⟩ := h
  exact ⟨session, zeros, ht.imp (fun h => hx.trans (congrArg _ h)) (fun h => hx.trans (congrArg _ h)), hsession⟩

end WiresLow

/-- Settles O15: an event does not occur, the controller takes nothing, and each edge moves the wires. -/
theorem nothingHappensWhileResetnLow : Obligations.NothingHappensWhileResetnLow := by
  unfold Obligations.NothingHappensWhileResetnLow
  intro c s hr hassert hrelease
  refine ⟨exec_low hr hassert hrelease, ?_⟩
  by_cases hlink : (∀ edges, c ≠ .commandFrame edges) ∧ c ≠ .fetchSelect ∧ ∀ edges, c ≠ .fetchEnd edges
  · obtain ⟨hcommand, hselect, hfetch⟩ := hlink
    exact (WiresLow.refl s).answers (exec_low hr hassert hrelease hcommand hselect hfetch)
  · cases c with
    | commandFrame edges => exact (WiresLow.runEdges hr _ edges).answers rfl
    | fetchSelect => exact (WiresLow.runEdges hr _ _).answers rfl
    | fetchEnd edges => exact (WiresLow.runEdges hr _ edges).answers rfl
    | _ => exact absurd ⟨nofun, nofun, nofun⟩ hlink

end Sys2Proof.Machine

/-! SUPPORT. The verdict on a session's bytes (R173, R186): what each test of section 10.2 answers, and what an ACCEPTED
frame is. -/

namespace Sys2Proof.Machine

/- One proof after another: a thread for each at once is more than a machine holds. -/
set_option Elab.async false

/-! ### The codes of the commands -/

theorem commandOf_some {b : Byte} {c : CommandCode} : commandOf b = some c ↔ b = c.toByte := by
  constructor
  · intro h
    have hfound := List.find?_some h
    exact (beq_iff_eq.mp hfound).symm
  · rintro rfl
    cases c <;> rfl

theorem commandOf_none {b : Byte} : commandOf b = none ↔ ∀ c : CommandCode, b ≠ c.toByte := by
  simp only [Option.eq_none_iff_forall_ne_some, ne_eq, commandOf_some]

theorem payloadLength_lt (c : CommandCode) : c.payloadLength < 256 := by
  cases c <;> decide

theorem head_commandType {bytes : List Byte} : bytes.head? = some commandType ↔ byteAt bytes 0 = commandType := by
  cases bytes with
  | nil => exact iff_of_false nofun (by decide)
  | cons b rest => exact Option.some_inj

/-! ### The tests in their order -/

/-- Tests 1 to 3 of section 10.2 pass: a COMMAND's bytes, a whole frame among them, and its CRC matches. -/
structure WholeFrame (bytes : List Byte) : Prop where
  type : bytes.head? = some commandType
  complete : 5 + (byteAt bytes 3).toNat ≤ bytes.length
  crc : byteAt bytes (4 + (byteAt bytes 3).toNat) = crc8 (bytes.take (4 + (byteAt bytes 3).toNat))

section

variable {queued : Nat} {bytes : List Byte}

theorem judgeFrame_notCommand (h : bytes.head? ≠ some commandType) :
    judgeFrame queued bytes = .dropped .unknownCommand :=
  if_pos (mt head_commandType.mpr h)

theorem judgeFrame_incomplete (htype : bytes.head? = some commandType)
    (h : bytes.length < 4 ∨ bytes.length < 5 + (byteAt bytes 3).toNat) :
    judgeFrame queued bytes = .dropped .badLength :=
  (if_neg (not_not.mpr (head_commandType.mp htype))).trans (if_pos h)

theorem judgeFrame_badCrc (htype : bytes.head? = some commandType)
    (hlen : 5 + (byteAt bytes 3).toNat ≤ bytes.length)
    (h : byteAt bytes (4 + (byteAt bytes 3).toNat) ≠ crc8 (bytes.take (4 + (byteAt bytes 3).toNat))) :
    judgeFrame queued bytes = .dropped .badCrc :=
  (if_neg (not_not.mpr (head_commandType.mp htype))).trans ((if_neg (by omega)).trans (if_pos h))

theorem judgeFrame_whole (h : WholeFrame bytes) : judgeFrame queued bytes = judgeCode queued bytes :=
  have hlen := h.complete
  (if_neg (not_not.mpr (head_commandType.mp h.type))).trans
    ((if_neg (by omega)).trans (if_neg (not_not.mpr h.crc)))

theorem judgeCode_unknown (h : ∀ c : CommandCode, byteAt bytes 2 ≠ c.toByte) :
    judgeCode queued bytes = .dropped .unknownCommand := by
  unfold judgeCode
  rw [commandOf_none.mpr h]

/-- Tests 5 and 6: the length that the code requires, and room in the queue. -/
theorem judgeCode_known {c : CommandCode} (h : byteAt bytes 2 = c.toByte) : judgeCode queued bytes =
    if (byteAt bytes 3).toNat ≠ c.payloadLength then .dropped .badLength
    else if 4 ≤ queued then .dropped .queueFull
    else .accepted ⟨byteAt bytes 1, c, (bytes.drop 4).take c.payloadLength⟩ := by
  unfold judgeCode
  rw [commandOf_some.mpr h]
  rfl

theorem judgeFrame_accepts {c : CommandCode} (h : WholeFrame bytes) (hcode : byteAt bytes 2 = c.toByte)
    (hlen : (byteAt bytes 3).toNat = c.payloadLength) (hroom : queued < 4) :
    judgeFrame queued bytes = .accepted ⟨byteAt bytes 1, c, (bytes.drop 4).take c.payloadLength⟩ := by
  rw [judgeFrame_whole h, judgeCode_known hcode, if_neg (not_not.mpr hlen), if_neg (by omega)]

theorem judgeFrame_of_fails {v : Verdict} (h : FrameFails queued bytes v) : judgeFrame queued bytes = .dropped v := by
  cases h with
  | notCommand h => exact judgeFrame_notCommand h
  | incomplete htype h => exact judgeFrame_incomplete htype h
  | badCrc n htype hn hlen h =>
    subst hn
    exact judgeFrame_badCrc htype hlen h
  | noCommand n htype hn hlen hcrc h =>
    subst hn
    rw [judgeFrame_whole ⟨htype, hlen, hcrc⟩, judgeCode_unknown h]
  | badLength n c htype hn hlen hcrc hcode h =>
    subst hn
    rw [judgeFrame_whole ⟨htype, hlen, hcrc⟩, judgeCode_known hcode, if_pos h]
  | queueFull n c htype hn hlen hcrc hcode h hfull =>
    subst hn
    rw [judgeFrame_whole ⟨htype, hlen, hcrc⟩, judgeCode_known hcode, if_neg (not_not.mpr h), if_pos hfull]

/-- The bytes fail one of the tests, or pass them all. -/
theorem fails_or_passes (queued : Nat) (bytes : List Byte) : (∃ v, FrameFails queued bytes v) ∨
    WholeFrame bytes ∧ queued < 4 ∧
      ∃ c : CommandCode, byteAt bytes 2 = c.toByte ∧ (byteAt bytes 3).toNat = c.payloadLength := by
  by_cases htype : bytes.head? = some commandType
  swap
  · exact .inl ⟨_, .notCommand htype⟩
  by_cases hshort : bytes.length < 4 ∨ bytes.length < 5 + (byteAt bytes 3).toNat
  · exact .inl ⟨_, .incomplete htype hshort⟩
  have hlen : 5 + (byteAt bytes 3).toNat ≤ bytes.length := by omega
  by_cases hcrc : byteAt bytes (4 + (byteAt bytes 3).toNat) = crc8 (bytes.take (4 + (byteAt bytes 3).toNat))
  swap
  · exact .inl ⟨_, .badCrc _ htype rfl hlen hcrc⟩
  by_cases hcode : ∃ c : CommandCode, byteAt bytes 2 = c.toByte
  swap
  · exact .inl ⟨_, .noCommand _ htype rfl hlen hcrc (not_exists.mp hcode)⟩
  obtain ⟨c, hcode⟩ := hcode
  by_cases hpayload : (byteAt bytes 3).toNat = c.payloadLength
  swap
  · exact .inl ⟨_, .badLength _ c htype rfl hlen hcrc hcode hpayload⟩
  by_cases hroom : queued < 4
  · exact .inr ⟨⟨htype, hlen, hcrc⟩, hroom, c, hcode, hpayload⟩
  · exact .inl ⟨_, .queueFull _ c htype rfl hlen hcrc hcode hpayload (by omega)⟩

/-- An ACCEPTED frame passed every test, and its fields are the bytes in their places (R173, R186). -/
theorem judgeFrame_accepted_iff {f : Frame} : judgeFrame queued bytes = .accepted f ↔
    WholeFrame bytes ∧ queued < 4 ∧ byteAt bytes 2 = f.code.toByte ∧
      (byteAt bytes 3).toNat = f.code.payloadLength ∧
      f = ⟨byteAt bytes 1, f.code, (bytes.drop 4).take f.code.payloadLength⟩ := by
  constructor
  · intro h
    rcases fails_or_passes queued bytes with ⟨v, hv⟩ | ⟨hwhole, hroom, c, hcode, hlen⟩
    · rw [judgeFrame_of_fails hv] at h
      cases h
    · rw [judgeFrame_accepts hwhole hcode hlen hroom] at h
      cases h
      exact ⟨hwhole, hroom, hcode, hlen, rfl⟩
  · rintro ⟨hwhole, hroom, hcode, hlen, hf⟩
    rw [judgeFrame_accepts hwhole hcode hlen hroom, ← hf]

end

/-! ### A frame as the host sends it (section 11.2) -/

/-- The bytes that the CRC is over. -/
def Frame.body (f : Frame) : List Byte :=
  [commandType, f.seq, f.code.toByte, BitVec.ofNat 8 f.payload.length] ++ f.payload

theorem frame_bytes (f : Frame) : f.bytes = f.body ++ [crc8 f.body] :=
  rfl

theorem frame_body_length (f : Frame) : f.body.length = 4 + f.payload.length := by
  rw [Frame.body, List.length_append]
  rfl

/-- A session that begins with a frame's encoding passes the tests, up to the frame's code, length and room. -/
theorem wholeFrame_of_bytes {f : Frame} (h : f.payload.length < 256) (more : List Byte) :
    WholeFrame (f.bytes ++ more) ∧ (byteAt (f.bytes ++ more) 3).toNat = f.payload.length := by
  have hlen : (byteAt (f.bytes ++ more) 3).toNat = f.payload.length := toNat_ofNat_byte h
  have hbody : (f.bytes ++ more).take (4 + f.payload.length) = f.body := by
    rw [frame_bytes, List.append_assoc, List.take_left' (frame_body_length f)]
  refine ⟨⟨rfl, ?_, ?_⟩, hlen⟩
  · rw [hlen, List.length_append, frame_bytes, List.length_append, frame_body_length, List.length_singleton]
    omega
  · rw [hlen, hbody, frame_bytes, List.append_assoc, byteAt, List.getD_append_right _ _ _ _ (frame_body_length f).le,
      frame_body_length, Nat.sub_self]
    rfl

/-- A whole frame of a known code is the encoding of its fields. -/
theorem bytes_prefix_of_whole {bytes : List Byte} {f : Frame} (h : WholeFrame bytes)
    (hcode : byteAt bytes 2 = f.code.toByte) (hlen : (byteAt bytes 3).toNat = f.payload.length)
    (hf : f = ⟨byteAt bytes 1, f.code, (bytes.drop 4).take f.payload.length⟩) : f.bytes <+: bytes := by
  obtain ⟨htype, hcomplete, hcrc⟩ := h
  rw [hlen] at hcomplete hcrc
  have hbody : f.body = bytes.take (4 + f.payload.length) := by
    obtain ⟨b0, b1, b2, b3, rest, rfl⟩ : ∃ b0 b1 b2 b3 rest, bytes = b0 :: b1 :: b2 :: b3 :: rest := by
      match bytes, (by omega : 4 ≤ bytes.length) with
      | b0 :: b1 :: b2 :: b3 :: rest, _ => exact ⟨b0, b1, b2, b3, rest, rfl⟩
    have h3 : b3 = BitVec.ofNat 8 f.payload.length := by
      rw [← hlen]
      exact ((BitVec.ofNat_toNat 8 b3).trans (BitVec.setWidth_eq b3)).symm
    have hseq : f.seq = b1 := congrArg Frame.seq hf
    have hpayload : f.payload = rest.take f.payload.length := congrArg Frame.payload hf
    rw [Nat.add_comm, Frame.body, hseq, ← hcode, ← h3, ← Option.some.inj htype]
    exact congrArg (b0 :: b1 :: b2 :: b3 :: ·) hpayload
  have hbytes : f.bytes = bytes.take (4 + f.payload.length + 1) := by
    rw [frame_bytes, hbody, ← hcrc, byteAt, List.take_add_one, List.getD_eq_getElem?_getD,
      List.getElem?_eq_getElem (by omega)]
    rfl
  rw [hbytes]
  exact List.take_prefix _ _

/-- Settles O36. -/
theorem acceptedFramesAreExactlyTheirEncodings : Obligations.AcceptedFramesAreExactlyTheirEncodings := by
  unfold Obligations.AcceptedFramesAreExactlyTheirEncodings
  intro queued bytes f
  rw [judgeFrame_accepted_iff]
  constructor
  · rintro ⟨hwhole, hroom, hcode, hlen, hf⟩
    have hpayload : f.payload.length = f.code.payloadLength := by
      have hcomplete := hwhole.complete
      rw [congrArg Frame.payload hf, List.length_take, List.length_drop]
      omega
    refine ⟨hroom, hpayload, bytes_prefix_of_whole hwhole hcode (hlen.trans hpayload.symm) ?_⟩
    rw [hpayload]
    exact hf
  · rintro ⟨hroom, hpayload, more, rfl⟩
    have hlt : f.payload.length < 256 := hpayload ▸ payloadLength_lt f.code
    obtain ⟨hwhole, hlen⟩ := wholeFrame_of_bytes hlt more
    refine ⟨hwhole, hroom, rfl, hlen.trans hpayload, ?_⟩
    have htake : ((f.bytes ++ more).drop 4).take f.code.payloadLength = f.payload :=
      show ((f.payload ++ [crc8 f.body]) ++ more).take f.code.payloadLength = f.payload by
        rw [List.append_assoc, List.take_left' hpayload]
    rw [htake]
    rfl

end Sys2Proof.Machine

/-! SUPPORT. The link's sessions, edge by edge (R171 to R176): what the edges of a byte, whole or cut short, make of a
session and of MISO. -/

namespace Sys2Proof.Machine

/- One proof after another: a thread for each at once is more than a machine holds. -/
set_option Elab.async false

/-! ### The wires -/

/-- The same state with other wires. -/
def State.wired (s : State) (a : Session) (miso : List Bool) : State :=
  { s with session := some a, miso := miso }

theorem wired_self {s : State} {a : Session} (hs : s.session = some a) : s.wired a s.miso = s := by
  rw [State.wired, ← hs]

theorem wired_wired (s : State) (a b : Session) (m l : List Bool) : (s.wired a m).wired b l = s.wired b l :=
  rfl

theorem wired_miso (s : State) (a : Session) (m : List Bool) : (s.wired a m).miso = m :=
  rfl

/-- The same state in a session that is ignored, with so many free bits drawn. -/
def State.ignoring (s : State) (a : Session) (miso : List Bool) (draws : Nat) : State :=
  { s with session := some a, miso := miso, freeDraws := draws }

/-- A session with SCLK low: MISO shows the bit of the byte shifted that comes next. -/
def Session.low (kind : SessionKind) (bits : List Bool) (out : Byte) : Session :=
  ⟨kind, false, bits, out, out.getMsbD bits.length⟩

/-! ### One edge -/

section

variable {s : State} {a : Session}

theorem edge_csFall (hr : s.resetn = true) (hs : s.session = none) :
    s.spiEdge .csFall = s.wired (.low .untyped [] s.statusByte) [] := by
  simp only [State.spiEdge, hr, if_true, State.servedEdge, hs]
  rfl

theorem edge_csRise (hr : s.resetn = true) (hs : s.session = some a) : s.spiEdge .csRise = s.csRises a := by
  simp only [State.spiEdge, hr, if_true, State.servedEdge, hs]

theorem edge_rise (mosi : Bool) (hr : s.resetn = true) (hs : s.session = some a) (hlow : a.sclk = false) :
    s.spiEdge (.sclkRise mosi) = s.sclkRises a mosi := by
  simp only [State.spiEdge, hr, if_true, State.servedEdge, hs, hlow, Bool.false_eq_true, if_false]

theorem edge_fall (hr : s.resetn = true) (hs : s.session = some a) (hhigh : a.sclk = true) :
    s.spiEdge .sclkFall = s.sclkFalls a := by
  simp only [State.spiEdge, hr, if_true, State.servedEdge, hs, hhigh]

theorem wired_rise {m : List Bool} (mosi : Bool) (hr : s.resetn = true) (hlow : a.sclk = false) :
    (s.wired a m).spiEdge (.sclkRise mosi) = (s.wired a m).sclkRises a mosi :=
  edge_rise mosi hr rfl hlow

theorem wired_fall {m : List Bool} (hr : s.resetn = true) (hhigh : a.sclk = true) :
    (s.wired a m).spiEdge .sclkFall = (s.wired a m).sclkFalls a :=
  edge_fall hr rfl hhigh

theorem rises_partial (mosi : Bool) (hk : a.kind ≠ .ignored) (hlen : a.bits.length < 7) : s.sclkRises a mosi =
    s.wired { a with sclk := true, bits := a.bits ++ [mosi] } (s.miso ++ [a.pin]) := by
  have hshort : ¬8 ≤ (a.bits ++ [mosi]).length := by rw [List.length_append, List.length_singleton]; omega
  unfold State.sclkRises
  dsimp only
  split
  next h => exact absurd h hk
  next => rw [if_neg hshort]; rfl

/-- The eighth bit completes the byte. -/
theorem rises_whole {b : Byte} (mosi : Bool) (hk : a.kind ≠ .ignored) (hbits : a.bits ++ [mosi] = byteBits b) :
    s.sclkRises a mosi =
      s.wired { a with kind := s.afterByte b a.kind, sclk := true, bits := [] } (s.miso ++ [a.pin]) := by
  unfold State.sclkRises
  rw [hbits]
  dsimp only
  rw [byteOfBits_byteBits]
  split
  next h => exact absurd h hk
  next => rw [if_pos (byteBits_length b).ge]; rfl

theorem rises_ignored (mosi : Bool) (hk : a.kind = .ignored) :
    s.sclkRises a mosi = s.wired { a with sclk := true } (s.miso ++ [a.pin]) := by
  unfold State.sclkRises
  simp only [hk]
  rfl

theorem falls_partial (hk : a.kind ≠ .ignored) (hbits : a.bits ≠ []) :
    s.sclkFalls a = s.wired { a with sclk := false, pin := a.out.getMsbD a.bits.length } s.miso := by
  unfold State.sclkFalls
  split
  next h => exact absurd h hk
  next => rw [List.isEmpty_eq_false_iff.mpr hbits]; rfl

/-- After a byte's eighth bit the next byte begins to shift. -/
theorem falls_fresh (hk : a.kind ≠ .ignored) (hbits : a.bits = []) :
    s.sclkFalls a = s.wired (.low a.kind [] (s.nextByte a.kind)) s.miso := by
  unfold State.sclkFalls
  split
  next h => exact absurd h hk
  next => rw [hbits]; rfl

theorem falls_ignored (hk : a.kind = .ignored) : s.sclkFalls a =
    s.ignoring { a with sclk := false, pin := Config.freeBit s.freeDraws } s.miso (s.freeDraws + 1) := by
  unfold State.sclkFalls
  simp only [hk]
  rfl

end

/-! ### Whose edges they are -/

/-- The edges of a session of this kind are a command's own while they complete no byte. -/
def OwnsPartial (own : State → SpiEdge → Bool) (kind : SessionKind) : Prop :=
  ∀ (t : State) (a : Session) (e : SpiEdge), t.session = some a → a.kind = kind →
    (∀ mosi, e = .sclkRise mosi → a.bits.length < 7) → own t e = true

theorem ownsCommand_partial {kind : SessionKind} (h : ∀ selected clocked, kind ≠ .fetch selected clocked) :
    OwnsPartial State.ownsCommand kind := by
  rintro t a e ha rfl hpart
  unfold State.ownsCommand
  rw [ha]
  dsimp only
  split
  next selected clocked hk => exact absurd hk (h selected clocked)
  next =>
    rw [Bool.not_eq_true']
    cases e with
    | sclkRise mosi =>
      refine Bool.and_eq_false_iff.mpr (.inr (beq_false_of_ne fun hbits => ?_))
      have hlen := congrArg List.length hbits
      rw [List.length_append, List.length_singleton, byteBits_length] at hlen
      have := hpart mosi rfl
      omega
    | _ => rfl

theorem ownsFetch_partial (selected : Option RespIx) (clocked : Nat) :
    OwnsPartial State.ownsFetch (.fetch selected clocked) := by
  intro t a e ha hk _
  rw [State.ownsFetch, ha]
  simp only [hk]

/-- The last bit of a byte that does not make the session a FETCH is COMMAND_FRAME's. -/
theorem ownsCommand_last {t : State} {a : Session} {b : Byte} {mosi : Bool} (ha : t.session = some a)
    (hk : a.kind = .untyped ∧ b ≠ fetchType ∨ ∃ bytes, a.kind = .command bytes)
    (hbits : a.bits ++ [mosi] = byteBits b) : t.ownsCommand (.sclkRise mosi) = true := by
  unfold State.ownsCommand
  rw [ha]
  rcases hk with ⟨hk, hb⟩ | ⟨bytes, hk⟩
  · simp only [hk, Session.completesFetchType, hbits]
    rw [beq_false_of_ne (mt byteBits_inj hb), Bool.and_false]
    rfl
  · simp only [hk, Session.completesFetchType]
    rfl

/-! ### The bits of a byte -/

theorem byteBits_get (b : Byte) {i : Nat} (hi : i < (byteBits b).length) : (byteBits b)[i] = b.getMsbD i := by
  simp only [byteBits, List.getElem_map, List.getElem_range]

theorem byteBits_drop (b : Byte) {i : Nat} (hi : i < 8) :
    (byteBits b).drop i = b.getMsbD i :: (byteBits b).drop (i + 1) := by
  rw [List.drop_eq_getElem_cons ((byteBits_length b).symm ▸ hi), byteBits_get]

section

variable {own : State → SpiEdge → Bool} {kind : SessionKind} {out : Byte}

/-- Bits that complete no byte: each shifts one bit of the byte that goes out (R171). -/
theorem runEdges_bits (hown : OwnsPartial own kind) (hk : kind ≠ .ignored) (rest : List SpiEdge) :
    ∀ (more bits : List Bool) (s : State), s.resetn = true → s.session = some (.low kind bits out) →
      bits.length + more.length < 8 →
      runEdges own (more.flatMap bitEdges ++ rest) s = runEdges own rest
        (s.wired (.low kind (bits ++ more) out) (s.miso ++ ((byteBits out).drop bits.length).take more.length))
  | [], bits, s, _, hs, _ => by
    rw [List.append_nil, List.length_nil, List.take_zero, List.append_nil, wired_self hs]
    rfl
  | b :: more, bits, s, hr, hs, hlen => by
    rw [List.length_cons] at hlen
    have hrise : s.spiEdge (.sclkRise b) = s.wired ⟨kind, true, bits ++ [b], out, out.getMsbD bits.length⟩
        (s.miso ++ [out.getMsbD bits.length]) := by
      rw [edge_rise b hr hs rfl, rises_partial b hk (show bits.length < 7 by omega)]
      rfl
    have hfall : (s.spiEdge (.sclkRise b)).spiEdge .sclkFall =
        s.wired (.low kind (bits ++ [b]) out) (s.miso ++ [out.getMsbD bits.length]) := by
      rw [hrise, wired_fall hr rfl, falls_partial hk (show bits ++ [b] ≠ [] by simp)]
      rfl
    have howns : own (s.spiEdge (.sclkRise b)) .sclkFall = true := by
      rw [hrise]
      exact hown _ _ _ rfl rfl nofun
    have hedges : (b :: more).flatMap bitEdges ++ rest =
        .sclkRise b :: .sclkFall :: (more.flatMap bitEdges ++ rest) := rfl
    rw [hedges, runEdges_cons _ (hown s _ _ hs rfl fun _ _ => show bits.length < 7 by omega), runEdges_cons _ howns,
      hfall]
    have hrun := runEdges_bits hown hk rest more (bits ++ [b])
      (s.wired (.low kind (bits ++ [b]) out) (s.miso ++ [out.getMsbD bits.length])) hr rfl
      (by rw [List.length_append, List.length_singleton]; omega)
    rw [hrun, wired_wired, wired_miso, List.append_assoc, List.append_assoc, List.length_append,
      byteBits_drop out (show bits.length < 8 by omega)]
    rfl

/-- The bits that complete a byte, up to the rising edge of the last. -/
theorem runEdges_lastBits {s : State} {b : Byte} {bits more : List Bool} {last : Bool} (hown : OwnsPartial own kind)
    (hlast : ∀ (t : State) (a : Session) (mosi : Bool), t.session = some a → a.kind = kind →
      a.bits ++ [mosi] = byteBits b → own t (.sclkRise mosi) = true) (hk : kind ≠ .ignored) (rest : List SpiEdge)
    (hr : s.resetn = true) (hs : s.session = some (.low kind bits out)) (hb : bits ++ (more ++ [last]) = byteBits b) :
    runEdges own (more.flatMap bitEdges ++ .sclkRise last :: rest) s = runEdges own rest
      (s.wired ⟨s.afterByte b kind, true, [], out, out.getLsbD 0⟩ (s.miso ++ (byteBits out).drop bits.length)) := by
  have hlen : bits.length + more.length = 7 := by
    have := congrArg List.length hb
    rw [byteBits_length, List.length_append, List.length_append, List.length_singleton] at this
    omega
  have hbits : bits ++ more ++ [last] = byteBits b := by rw [List.append_assoc, hb]
  have hmiso : ((byteBits out).drop bits.length).take more.length ++ [out.getMsbD 7] =
      (byteBits out).drop bits.length := by
    have hrest : ((byteBits out).drop bits.length).drop more.length = [out.getMsbD 7] := by
      rw [List.drop_drop, hlen]
      rfl
    rw [← hrest, List.take_append_drop]
  rw [runEdges_bits hown hk _ more bits s hr hs (by omega), runEdges_cons _ (hlast _ _ last rfl rfl hbits),
    wired_rise last hr rfl, rises_whole last hk hbits]
  have hpin : (Session.low kind (bits ++ more) out).pin = out.getMsbD 7 :=
    congrArg out.getMsbD (List.length_append.trans hlen)
  rw [wired_wired, wired_miso, List.append_assoc, hpin, hmiso]
  rfl

theorem dropLast_bitEdges (more : List Bool) (last : Bool) :
    ((more ++ [last]).flatMap bitEdges).dropLast = more.flatMap bitEdges ++ [.sclkRise last] := by
  rw [List.flatMap_append, show [last].flatMap bitEdges = [.sclkRise last] ++ [SpiEdge.sclkFall] from rfl,
    ← List.append_assoc, List.dropLast_concat]

/-- What is left of a byte, up to the rising edge of its last bit, and nothing after it. -/
theorem runEdges_restOfByte {s : State} {b : Byte} {bits more : List Bool} (hown : OwnsPartial own kind)
    (hlast : ∀ (t : State) (a : Session) (mosi : Bool), t.session = some a → a.kind = kind →
      a.bits ++ [mosi] = byteBits b → own t (.sclkRise mosi) = true) (hk : kind ≠ .ignored)
    (hr : s.resetn = true) (hs : s.session = some (.low kind bits out)) (hlen : bits.length < 8)
    (hb : bits ++ more = byteBits b) : runEdges own (more.flatMap bitEdges).dropLast s =
      s.wired ⟨s.afterByte b kind, true, [], out, out.getLsbD 0⟩ (s.miso ++ (byteBits out).drop bits.length) := by
  rcases List.eq_nil_or_concat' more with rfl | ⟨init, last, rfl⟩
  · have := congrArg List.length hb
    rw [List.append_nil, byteBits_length] at this
    omega
  · rw [dropLast_bitEdges, runEdges_lastBits hown hlast hk [] hr hs hb]
    rfl

end

/-! ### Sessions served by nobody (R184) -/

/-- MISO's bits in so many SCLK periods of an ignored session: the one on it, then free values (log entry 6). -/
def ignoredBits (pin : Bool) (draws n : Nat) : List Bool :=
  (pin :: (List.range n).map fun k => Config.freeBit (draws + k)).take n

theorem ignoredBits_succ (pin : Bool) (draws n : Nat) :
    ignoredBits pin draws (n + 1) = pin :: ignoredBits (Config.freeBit draws) (draws + 1) n := by
  have hdraws : (List.range (n + 1)).map (fun k => Config.freeBit (draws + k)) =
      Config.freeBit draws :: (List.range n).map fun k => Config.freeBit (draws + 1 + k) := by
    rw [List.range_succ_eq_map, List.map_cons, List.map_map]
    refine congrArg (_ :: ·) (List.map_congr_left fun k _ => ?_)
    exact congrArg Config.freeBit (by omega)
  rw [ignoredBits, hdraws, List.take_succ_cons]
  rfl

theorem runEdges_ignored_bits {own : State → SpiEdge → Bool}
    (hown : ∀ (t : State) (a : Session) (e : SpiEdge), t.session = some a → a.kind = .ignored → own t e = true)
    (rest : List SpiEdge) : ∀ (bits : List Bool) (s : State) (a : Session), s.resetn = true → s.session = some a →
      a.kind = .ignored → a.sclk = false → ∃ a' : Session, a'.kind = .ignored ∧
        runEdges own (bits.flatMap bitEdges ++ rest) s = runEdges own rest
          (s.ignoring a' (s.miso ++ ignoredBits a.pin s.freeDraws bits.length) (s.freeDraws + bits.length))
  | [], s, a, _, hs, hk, _ => by
    refine ⟨a, hk, ?_⟩
    rw [State.ignoring, ← hs, List.length_nil, ignoredBits, List.take_zero, List.append_nil]
    rfl
  | b :: bits, s, a, hr, hs, hk, hlow => by
    have hrise : s.spiEdge (.sclkRise b) = s.wired { a with sclk := true } (s.miso ++ [a.pin]) := by
      rw [edge_rise b hr hs hlow, rises_ignored b hk]
    have hfall : (s.spiEdge (.sclkRise b)).spiEdge .sclkFall =
        s.ignoring { a with sclk := false, pin := Config.freeBit s.freeDraws } (s.miso ++ [a.pin])
          (s.freeDraws + 1) := by
      rw [hrise, wired_fall hr rfl, falls_ignored (by exact hk)]
      rfl
    have howns : own (s.spiEdge (.sclkRise b)) .sclkFall = true := by
      rw [hrise]
      exact hown _ _ _ rfl hk
    obtain ⟨a', hk', hrun⟩ := runEdges_ignored_bits hown rest bits
      (s.ignoring { a with sclk := false, pin := Config.freeBit s.freeDraws } (s.miso ++ [a.pin]) (s.freeDraws + 1))
      _ hr rfl hk rfl
    refine ⟨a', hk', ?_⟩
    have hedges : (b :: bits).flatMap bitEdges ++ rest =
        .sclkRise b :: .sclkFall :: (bits.flatMap bitEdges ++ rest) := rfl
    rw [hedges, runEdges_cons _ (hown s a _ hs hk), runEdges_cons _ howns, hfall, hrun, List.length_cons,
      ignoredBits_succ, Nat.add_comm bits.length 1, ← Nat.add_assoc,
      List.append_cons s.miso a.pin (ignoredBits _ _ _)]
    rfl

/-- A session that is ignored ends without effect. -/
theorem runEdges_ignored_session {own : State → SpiEdge → Bool}
    (hown : ∀ (t : State) (a : Session) (e : SpiEdge), t.session = some a → a.kind = .ignored → own t e = true)
    {s : State} {a : Session} (bits : List Bool) (hr : s.resetn = true) (hs : s.session = some a)
    (hk : a.kind = .ignored) (hlow : a.sclk = false) :
    runEdges own (bits.flatMap bitEdges ++ [.csRise]) s =
      { s with
        session := none
        miso := s.miso ++
          (a.pin :: (List.range bits.length).map fun k => Config.freeBit (s.freeDraws + k)).take bits.length
        freeDraws := s.freeDraws + bits.length } := by
  obtain ⟨a', hk', hrun⟩ := runEdges_ignored_bits hown [.csRise] bits s a hr hs hk hlow
  have hrise : (s.ignoring a' (s.miso ++ ignoredBits a.pin s.freeDraws bits.length)
      (s.freeDraws + bits.length)).spiEdge .csRise = _ := edge_csRise hr rfl
  rw [hrun, runEdges_cons _ (hown _ a' _ rfl hk'), hrise]
  unfold State.csRises
  simp only [hk']
  rfl

end Sys2Proof.Machine

/-! SUPPORT. The status byte (R172, R188), and the COMMAND and FETCH sessions whole (R171 to R176). -/

namespace Sys2Proof.Machine

/- One proof after another: a thread for each at once is more than a machine holds. -/
set_option Elab.async false

/-! ### The status byte -/

theorem verdict_code_le (v : Verdict) : v.code ≤ 4 := by
  cases v <;> decide

theorem statusCode_le {s : State} (h : s.queue.length ≤ 4) : s.statusCode ≤ 124 := by
  have hv := verdict_code_le s.verdict
  have hf : filledClass s.bank.filledCount ≤ 4 := Nat.min_le_right _ _
  unfold State.statusCode
  omega

theorem statusByte_bit7 {s : State} (h : s.queue.length ≤ 4) : s.statusByte.getLsbD 7 = s.alert := by
  have hcode := statusCode_le h
  have hlow : (s.statusCode % 128).testBit 7 = false := Nat.testBit_lt_two_pow (Nat.mod_lt _ (by decide))
  rw [State.statusByte, BitVec.getLsbD_or, BitVec.getLsbD_ofNat, hlow, Bool.and_false, Bool.or_false]
  cases s.alert <;> rfl

theorem statusByte_code {s : State} (h : s.queue.length ≤ 4) : s.statusByte.toNat % 128 = s.statusCode := by
  have hcode := statusCode_le h
  have hsmall : (BitVec.ofNat 8 (s.statusCode % 128)).toNat = s.statusCode := by
    rw [toNat_ofNat_byte (by omega), Nat.mod_eq_of_lt (by omega)]
  rw [State.statusByte, BitVec.toNat_or, hsmall]
  cases s.alert with
  | false =>
    rw [if_neg Bool.false_ne_true, show (0x00#8).toNat = 0 from rfl, Nat.zero_or]
    omega
  | true =>
    have hor : 128 ||| s.statusCode = 128 * 1 + s.statusCode :=
      (Nat.two_pow_add_eq_or_of_lt (i := 7) (show s.statusCode < 2 ^ 7 by omega) 1).symm
    rw [if_pos rfl, show (0x80#8).toNat = 128 from rfl, hor]
    omega

theorem filledClass_eq (n : Nat) : filledClass n = if n ≤ 3 then n else 4 := by
  unfold filledClass
  split <;> omega

theorem alert_iff (s : State) : s.alert = true ↔
    (s.settings.alertOnEvents = true ∧ s.log.records ≠ []) ∨
      (s.settings.alertOnResponses = true ∧ ∃ (k : RespIx) (f : ResponseFrame), s.bank.slots[k] = .filled f) := by
  have hfilled (k : RespIx) : s.bank.slots[k].isFilled = true ↔ ∃ f, s.bank.slots[k] = .filled f := by
    cases s.bank.slots[k] with
    | filled f => exact iff_of_true rfl ⟨f, rfl⟩
    | _ => exact iff_of_false nofun nofun
  rw [State.alert, Bool.or_eq_true, Bool.and_eq_true, Bool.and_eq_true, Bool.not_eq_true', List.isEmpty_eq_false_iff,
    List.any_eq_true]
  simp only [List.mem_finRange, true_and, hfilled]

/-! ### Edges that are COMMAND_FRAME's -/

theorem commandFrame_csFall {s : State} (hr : s.resetn = true) (hs : s.session = none) :
    exec (.commandFrame [.csFall]) s = .next (s.wired (.low .untyped [] s.statusByte) []) := by
  have howns : s.ownsCommand .csFall = true := by rw [State.ownsCommand, hs]
  exact congrArg Host.Outcome.next ((runEdges_cons [] howns).trans (edge_csFall hr hs))

theorem not_fetch_of_byte {kind : SessionKind} {before : List Byte} {b : Byte}
    (h : kind = .untyped ∧ before = [] ∧ b ≠ fetchType ∨ kind = .command before) :
    (∀ selected clocked, kind ≠ .fetch selected clocked) ∧ kind ≠ .ignored := by
  rcases h with ⟨rfl, -⟩ | rfl <;> exact ⟨nofun, nofun⟩

theorem afterByte_command (s : State) {kind : SessionKind} {before : List Byte} {b : Byte}
    (h : kind = .untyped ∧ before = [] ∧ b ≠ fetchType ∨ kind = .command before) :
    s.afterByte b kind = .command (before ++ [b]) := by
  rcases h with ⟨rfl, rfl, hb⟩ | rfl
  · exact if_neg hb
  · rfl

theorem ownsCommand_lastOfByte {kind : SessionKind} {before : List Byte} {b : Byte}
    (h : kind = .untyped ∧ before = [] ∧ b ≠ fetchType ∨ kind = .command before) (t : State) (a : Session)
    (mosi : Bool) (ha : t.session = some a) (hk : a.kind = kind) (hbits : a.bits ++ [mosi] = byteBits b) :
    t.ownsCommand (.sclkRise mosi) = true := by
  refine ownsCommand_last ha ?_ hbits
  rcases h with ⟨rfl, -, hb⟩ | rfl
  · exact .inl ⟨hk, hb⟩
  · exact .inr ⟨before, hk⟩

theorem low_of_pin {s : State} {kind : SessionKind} {out : Byte}
    (hs : s.session = some ⟨kind, false, [], out, out.getLsbD 7⟩) : s.session = some (.low kind [] out) :=
  hs

/-- Settles O41. -/
theorem statusByteFieldsAreRecoverable : Obligations.StatusByteFieldsAreRecoverable := by
  unfold Obligations.StatusByteFieldsAreRecoverable
  refine ⟨fun s hq => ?_, alert_iff, fun s hr hs => commandFrame_csFall hr hs, fun s bytes out pin hr hs => ?_,
    fun s kind before out b hr hs hcase => ?_, fun s => ⟨fun hs => ?_, fun a hs => ?_⟩⟩
  · have hv := verdict_code_le s.verdict
    have hle := statusCode_le hq
    have hf : filledClass s.bank.filledCount ≤ 4 := Nat.min_le_right _ _
    rw [statusByte_code hq, ← filledClass_eq]
    refine ⟨statusByte_bit7 hq, hle, ?_⟩
    unfold State.statusCode
    omega
  · have hown : s.ownsCommand .sclkFall = true :=
      ownsCommand_partial (kind := .command bytes) (fun _ _ => nofun) s _ .sclkFall hs rfl nofun
    have hfall : s.spiEdge .sclkFall = s.wired (.low (.command bytes) [] s.statusByte) s.miso := by
      rw [edge_fall hr hs rfl, falls_fresh (a := ⟨.command bytes, true, [], out, pin⟩) nofun rfl]
      rfl
    exact congrArg Host.Outcome.next ((runEdges_cons [] hown).trans hfall)
  · obtain ⟨hfetch, hignored⟩ := not_fetch_of_byte hcase
    have hrun := runEdges_restOfByte (ownsCommand_partial hfetch) (ownsCommand_lastOfByte hcase) hignored hr
      (low_of_pin hs) (by decide) (List.nil_append (byteBits b))
    rw [afterByte_command s hcase] at hrun
    exact congrArg Host.Outcome.next hrun
  · rw [State.misoPin, hs]
    rfl
  · rw [State.misoPin, hs]
    cases s.resetn <;> rfl

end Sys2Proof.Machine

/-! SUPPORT. Whole sessions of the link (R171 to R176, R184). -/

namespace Sys2Proof.Machine

/- One proof after another: a thread for each at once is more than a machine holds. -/
set_option Elab.async false

/-! ### A session that is no FETCH -/

theorem length_flatMap_byteBits (bytes : List Byte) : (bytes.flatMap byteBits).length = 8 * bytes.length := by
  induction bytes with
  | nil => rfl
  | cons b bytes ih =>
    rw [List.flatMap_cons, List.length_append, ih, byteBits_length, List.length_cons]
    omega

/-- One byte again and again: whole ones, and bits of the next. -/
theorem take_replicate_byteBits (b : Byte) (n t : Nat) :
    ((List.replicate (n + 1) b).flatMap byteBits).take (8 * n + t) =
      (List.replicate n b).flatMap byteBits ++ (byteBits b).take t := by
  have hlen : ((List.replicate n b).flatMap byteBits).length = 8 * n := by
    rw [length_flatMap_byteBits, List.length_replicate]
  rw [List.replicate_succ', List.flatMap_append, ← hlen, List.take_length_add_append]
  rfl

/-- What a session is when these bytes of it are complete, the first not FETCH's type byte (R173). -/
def kindOfBytes : List Byte → SessionKind
  | [] => .untyped
  | b :: bytes => .command (b :: bytes)

theorem kindOfBytes_no_fetch (bytes : List Byte) :
    (∀ selected clocked, kindOfBytes bytes ≠ .fetch selected clocked) ∧ kindOfBytes bytes ≠ .ignored := by
  cases bytes <;> exact ⟨fun _ _ => nofun, nofun⟩

/-- The first byte types the session (R173), and a fresh status byte begins. -/
theorem runEdges_first_byte {s : State} {out b : Byte} (rest : List SpiEdge) (hr : s.resetn = true)
    (hs : s.session = some (.low .untyped [] out)) (hb : b ≠ fetchType) :
    runEdges State.ownsCommand (byteEdges b ++ rest) s = runEdges State.ownsCommand rest
      (s.wired (.low (.command [b]) [] s.statusByte) (s.miso ++ byteBits out)) := by
  have hcase : SessionKind.untyped = .untyped ∧ ([] : List Byte) = [] ∧ b ≠ fetchType ∨
      SessionKind.untyped = .command [] := .inl ⟨rfl, rfl, hb⟩
  obtain ⟨init, last, hbits⟩ : ∃ init last, byteBits b = init ++ [last] := by
    rcases List.eq_nil_or_concat' (byteBits b) with h | h
    · cases h
    · exact h
  have hedges : byteEdges b ++ rest = init.flatMap bitEdges ++ .sclkRise last :: .sclkFall :: rest := by
    rw [byteEdges, hbits, List.flatMap_append, List.append_assoc]
    rfl
  have hrise := runEdges_lastBits (ownsCommand_partial (kind := .untyped) (fun _ _ => nofun))
    (ownsCommand_lastOfByte hcase) nofun (.sclkFall :: rest) hr hs hbits.symm
  rw [hedges, hrise, afterByte_command s hcase]
  have hown (m : List Bool) :
      (s.wired ⟨.command ([] ++ [b]), true, [], out, out.getLsbD 0⟩ m).ownsCommand .sclkFall = true := rfl
  rw [runEdges_cons _ (hown _), wired_fall hr rfl,
    falls_fresh (a := ⟨.command ([] ++ [b]), true, [], out, out.getLsbD 0⟩) nofun rfl]
  rfl

/-- Each byte after the type byte joins the bytes (R171, R173). -/
theorem runEdges_more_bytes (rest : List SpiEdge) : ∀ (bytes before : List Byte) (s : State), s.resetn = true →
    s.session = some (.low (.command before) [] s.statusByte) →
    runEdges State.ownsCommand (bytes.flatMap byteEdges ++ rest) s = runEdges State.ownsCommand rest
      (s.wired (.low (.command (before ++ bytes)) [] s.statusByte)
        (s.miso ++ (List.replicate bytes.length s.statusByte).flatMap byteBits))
  | [], before, s, _, hs => by
    show _ = runEdges State.ownsCommand rest (s.wired (.low (.command (before ++ [])) [] s.statusByte) (s.miso ++ []))
    rw [List.append_nil, List.append_nil, wired_self hs]
    rfl
  | b :: bytes, before, s, hr, hs => by
    have hrun := runEdges_more_bytes rest bytes (before ++ [b])
      (s.wired (.low (.command (before ++ [b])) [] s.statusByte) (s.miso ++ byteBits s.statusByte)) hr rfl
    rw [List.append_assoc, wired_wired, wired_miso, List.append_assoc] at hrun
    rw [List.flatMap_cons, List.append_assoc, runEdges_command_byte b _ hr hs]
    exact hrun

/-- The complete bytes of a session that is no FETCH, each with the status byte on MISO (R171, R172). -/
theorem runEdges_bytes {s : State} {bytes : List Byte} (rest : List SpiEdge) (hr : s.resetn = true)
    (hs : s.session = some (.low .untyped [] s.statusByte)) (hhead : bytes.head? ≠ some fetchType) :
    runEdges State.ownsCommand (bytes.flatMap byteEdges ++ rest) s = runEdges State.ownsCommand rest
      (s.wired (.low (kindOfBytes bytes) [] s.statusByte)
        (s.miso ++ (List.replicate bytes.length s.statusByte).flatMap byteBits)) := by
  cases bytes with
  | nil =>
    show _ = runEdges State.ownsCommand rest (s.wired (.low .untyped [] s.statusByte) (s.miso ++ []))
    rw [List.append_nil, wired_self hs]
    rfl
  | cons b bytes =>
    have hrun := runEdges_more_bytes rest bytes [b]
      (s.wired (.low (.command [b]) [] s.statusByte) (s.miso ++ byteBits s.statusByte)) hr rfl
    rw [wired_wired, wired_miso, List.append_assoc] at hrun
    rw [List.flatMap_cons, List.append_assoc, runEdges_first_byte _ hr hs (fun h => hhead (congrArg some h))]
    exact hrun

theorem ownsCommand_csRise {t : State} {a : Session} (ha : t.session = some a)
    (h : ∀ selected clocked, a.kind ≠ .fetch selected clocked) : t.ownsCommand .csRise = true :=
  ownsCommand_partial h t a .csRise ha rfl nofun

/-- CS's rising edge after complete bytes: they are judged (R173). -/
theorem commandEdges_end {s : State} {a : Session} {bytes : List Byte} (hr : s.resetn = true)
    (hs : s.session = some a) (hk : a.kind = .command bytes) : runEdges State.ownsCommand [.csRise] s =
      { s with
        session := none
        verdict := (judgeFrame s.queue.length bytes).verdict
        queue := s.queue ++ (judgeFrame s.queue.length bytes).joins } := by
  rw [runEdges_cons _ (ownsCommand_csRise hs (by rw [hk]; exact fun _ _ => nofun)), edge_csRise hr hs]
  unfold State.csRises
  simp only [hk]
  rfl

/-- A session with no complete byte ends without effect (R171). -/
theorem commandEdges_end_untyped {s : State} {a : Session} (hr : s.resetn = true) (hs : s.session = some a)
    (hk : a.kind = .untyped) : runEdges State.ownsCommand [.csRise] s = { s with session := none } := by
  rw [runEdges_cons _ (ownsCommand_csRise hs (by rw [hk]; exact fun _ _ => nofun)), edge_csRise hr hs]
  unfold State.csRises
  simp only [hk]
  rfl

/-- A whole session that is no FETCH. -/
theorem commandFrame_session {s : State} (bytes : List Byte) (tail : List Bool) (hr : s.resetn = true)
    (hs : s.session = none) (hhead : bytes.head? ≠ some fetchType) (htail : tail.length < 8) :
    exec (.commandFrame (.csFall :: bytes.flatMap byteEdges ++ tail.flatMap bitEdges ++ [.csRise])) s = .next
      { s with
        verdict := if bytes = [] then s.verdict else (judgeFrame s.queue.length bytes).verdict
        queue := if bytes = [] then s.queue else s.queue ++ (judgeFrame s.queue.length bytes).joins
        miso := ((List.replicate (bytes.length + 1) s.statusByte).flatMap byteBits).take
          (8 * bytes.length + tail.length) } := by
  obtain ⟨hfetch, hignored⟩ := kindOfBytes_no_fetch bytes
  have hfall : s.ownsCommand .csFall = true := by rw [State.ownsCommand, hs]
  have hbytes := runEdges_bytes (s := s.wired (.low .untyped [] s.statusByte) [])
    (tail.flatMap bitEdges ++ [.csRise]) hr rfl hhead
  have hbits := runEdges_bits (ownsCommand_partial hfetch) hignored [.csRise] tail []
    (s.wired (.low (kindOfBytes bytes) [] s.statusByte)
      ((List.replicate bytes.length s.statusByte).flatMap byteBits)) hr rfl (by simpa using htail)
  rw [wired_wired, wired_miso, List.length_nil, List.drop_zero, ← take_replicate_byteBits] at hbits
  have hrun : runEdges State.ownsCommand (.csFall :: bytes.flatMap byteEdges ++ tail.flatMap bitEdges ++ [.csRise]) s =
      runEdges State.ownsCommand [.csRise] (s.wired (.low (kindOfBytes bytes) tail s.statusByte)
        (((List.replicate (bytes.length + 1) s.statusByte).flatMap byteBits).take
          (8 * bytes.length + tail.length))) := by
    rw [List.append_assoc, List.cons_append, runEdges_cons _ hfall, edge_csFall hr hs]
    exact hbytes.trans hbits
  refine congrArg Host.Outcome.next (hrun.trans ?_)
  cases bytes with
  | nil =>
    refine (commandEdges_end_untyped (s := s.wired _ _) (a := .low .untyped tail s.statusByte) hr rfl rfl).trans ?_
    rw [if_pos rfl, if_pos rfl, ← hs]
    rfl
  | cons b bytes =>
    refine (commandEdges_end (s := s.wired _ _) (a := .low (.command (b :: bytes)) tail s.statusByte)
      hr rfl rfl).trans ?_
    rw [if_neg (List.cons_ne_nil b bytes), if_neg (List.cons_ne_nil b bytes), ← hs]
    rfl

theorem ownsCommand_ignored (t : State) (a : Session) (e : SpiEdge) (ha : t.session = some a)
    (hk : a.kind = .ignored) : t.ownsCommand e = true := by
  rw [State.ownsCommand, ha]
  simp only [hk]
  cases e with
  | sclkRise mosi => rw [Session.completesFetchType, hk]; rfl
  | _ => rfl

/-- Settles O37. -/
theorem commandFrameJoinsQueueOrIsDropped : Obligations.CommandFrameJoinsQueueOrIsDropped := by
  unfold Obligations.CommandFrameJoinsQueueOrIsDropped
  refine ⟨fun s bytes tail hr hs hhead htail => commandFrame_session bytes tail hr hs hhead htail,
    fun s a bytes hr hs hk => congrArg Host.Outcome.next (commandEdges_end hr hs hk),
    fun queued bytes => ⟨fun v => judgeFrame_of_fails, ?_⟩, fun v f => ⟨rfl, rfl, rfl, rfl⟩,
    fun s a bits hr hs hk hlow => congrArg Host.Outcome.next
      (runEdges_ignored_session ownsCommand_ignored bits hr hs hk hlow),
    fun s a edges selected clocked hs hk => congrArg Host.Outcome.next (runEdges_not_own edges fun e => ?_)⟩
  · rcases fails_or_passes queued bytes with hfails | ⟨hwhole, hroom, c, hcode, hlen⟩
    · exact .inl hfails
    · exact .inr ⟨_, judgeFrame_accepts hwhole hcode hlen hroom⟩
  · rw [State.ownsCommand, hs]
    simp only [hk]

end Sys2Proof.Machine

/-! SUPPORT. FETCH sessions (R175, R176): the type byte, the frame that is clocked out, and the slot that it leaves. -/

namespace Sys2Proof.Machine

/- One proof after another: a thread for each at once is more than a machine holds. -/
set_option Elab.async false

/-! ### The type byte -/

/-- What is left of FETCH's type byte selects the head of the fill order (R175). -/
theorem fetch_restOfType {s : State} {bits more : List Bool} {out : Byte} (hr : s.resetn = true)
    (hs : s.session = some (.low .untyped bits out)) (hlen : bits.length < 8) (hb : bits ++ more = byteBits fetchType) :
    runEdges (fun _ _ => true) (more.flatMap bitEdges).dropLast s =
      s.wired ⟨.fetch s.bank.order.head? 0, true, [], out, out.getLsbD 0⟩
        (s.miso ++ (byteBits out).drop bits.length) := by
  have htype : s.afterByte fetchType .untyped = .fetch s.bank.order.head? 0 := by
    rw [State.afterByte, if_pos rfl]
  rw [← htype]
  exact runEdges_restOfByte (fun _ _ _ _ _ _ => rfl) (fun _ _ _ _ _ _ => rfl) nofun hr hs hlen hb

theorem typeEdges_none {s : State} (hs : s.session = none) :
    s.typeEdges = .csFall :: ((byteBits fetchType).flatMap bitEdges).dropLast := by
  rw [State.typeEdges, hs]
  rfl

theorem typeEdges_untyped {s : State} {a : Session} (hs : s.session = some a) (hk : a.kind = .untyped) :
    s.typeEdges = if a.bits.isPrefixOf (byteBits fetchType) then
      (if a.sclk then .sclkFall :: (((byteBits fetchType).drop a.bits.length).flatMap bitEdges).dropLast
        else (((byteBits fetchType).drop a.bits.length).flatMap bitEdges).dropLast) else [] := by
  rw [State.typeEdges, hs]
  simp only [hk]

theorem typeEdges_idle {s : State} {a : Session} (hs : s.session = some a)
    (hbits : a.kind = .untyped → ¬a.bits <+: byteBits fetchType) (hk : a.kind ≠ .ignored) : s.typeEdges = [] := by
  cases hkind : a.kind with
  | untyped => rw [typeEdges_untyped hs hkind, if_neg (mt List.isPrefixOf_iff_prefix.mp (hbits hkind))]
  | command bytes => rw [State.typeEdges, hs]; simp only [hkind]
  | fetch selected clocked => rw [State.typeEdges, hs]; simp only [hkind]
  | ignored => exact absurd hkind hk

/-! ### An ignored session selects nothing (R184) -/

theorem edge_ignored {s : State} {a : Session} {e : SpiEdge} (hr : s.resetn = true) (hs : s.session = some a)
    (hk : a.kind = .ignored) (he : e ≠ .csRise) : ∃ (a' : Session) (bits : List Bool) (draws : Nat),
      a'.kind = .ignored ∧ s.spiEdge e = s.ignoring a' (s.miso ++ bits) (s.freeDraws + draws) := by
  rcases spiEdge_cases e hr with h | ⟨-, hnone, -⟩ | ⟨mosi, b, -, hb, -, h⟩ | ⟨b, -, hb, -, h⟩ | ⟨b, hrise, -⟩
  · refine ⟨a, [], 0, hk, h.trans ?_⟩
    rw [State.ignoring, ← hs, List.append_nil]
    rfl
  · exact absurd (hnone.symm.trans hs) nofun
  · obtain rfl : a = b := Option.some.inj (hs.symm.trans hb)
    exact ⟨{ a with sclk := true }, [a.pin], 0, hk, h.trans (rises_ignored mosi hk)⟩
  · obtain rfl : a = b := Option.some.inj (hs.symm.trans hb)
    refine ⟨{ a with sclk := false, pin := Config.freeBit s.freeDraws }, [], 1, hk, ?_⟩
    rw [h, falls_ignored hk, List.append_nil]
  · exact absurd hrise he

theorem runEdges_ignored {own : State → SpiEdge → Bool} : ∀ (edges : List SpiEdge) {s : State} {a : Session},
    s.resetn = true → s.session = some a → a.kind = .ignored → SpiEdge.csRise ∉ edges →
    ∃ (a' : Session) (bits : List Bool) (draws : Nat),
      a'.kind = .ignored ∧ runEdges own edges s = s.ignoring a' (s.miso ++ bits) (s.freeDraws + draws)
  | [], s, a, _, hs, hk, _ => by
    refine ⟨a, [], 0, hk, ?_⟩
    rw [State.ignoring, ← hs, List.append_nil]
    rfl
  | e :: edges, s, a, hr, hs, hk, he => by
    rw [List.mem_cons, not_or] at he
    obtain ⟨hne, hrest⟩ := he
    cases hown : own s e with
    | false =>
      refine ⟨a, [], 0, hk, ?_⟩
      rw [runEdges, if_neg (by rw [hown]; exact Bool.false_ne_true), State.ignoring, ← hs, List.append_nil]
      rfl
    | true =>
      obtain ⟨b, bits, draws, hb, hedge⟩ := edge_ignored hr hs hk (Ne.symm hne)
      obtain ⟨a', bits', draws', hk', hrun⟩ :=
        runEdges_ignored (own := own) edges (s := s.ignoring b (s.miso ++ bits) (s.freeDraws + draws)) hr rfl hb hrest
      refine ⟨a', bits ++ bits', draws + draws', hk', ?_⟩
      rw [runEdges_cons _ hown, hedge, hrun, ← List.append_assoc, ← Nat.add_assoc]
      rfl

/-- Settles O38. -/
theorem fetchSelectPicksHeadOfFillOrder : Obligations.FetchSelectPicksHeadOfFillOrder := by
  unfold Obligations.FetchSelectPicksHeadOfFillOrder
  refine ⟨fun s hr hs => ?_, fun s a hr hs hsound hk hprefix => ?_, fun s a hs hbits hk => ?_,
    fun s a hr hs hk => ?_, by decide +kernel⟩
  · have hrun := fetch_restOfType (s := s.wired (.low .untyped [] s.statusByte) []) (bits := []) hr rfl (by decide) rfl
    refine congrArg Host.Outcome.next ?_
    rw [typeEdges_none hs, runEdges_cons _ rfl, edge_csFall hr hs]
    exact hrun
  · have hmore : a.bits ++ (byteBits fetchType).drop a.bits.length = byteBits fetchType :=
      List.prefix_iff_eq_append.mp hprefix
    have hrun := fetch_restOfType (s := s.wired (.low .untyped a.bits a.out) s.miso) hr rfl hsound.partial_byte hmore
    refine congrArg Host.Outcome.next ?_
    rw [typeEdges_untyped hs hk, if_pos (List.isPrefixOf_iff_prefix.mpr hprefix)]
    cases hsclk : a.sclk with
    | true =>
      have hfall : s.spiEdge .sclkFall = s.wired (.low .untyped a.bits a.out) s.miso := by
        rw [edge_fall hr hs hsclk, falls_partial (by rw [hk]; nofun) (hsound.untyped hk hsclk), hk]
        rfl
      rw [if_pos rfl, runEdges_cons _ rfl, hfall]
      exact hrun
    | false =>
      have hlow : a = .low .untyped a.bits a.out := by
        have hpin := hsound.shifting (by rw [hk]; nofun) hsclk
        rw [Session.low, ← hpin, ← hk, ← hsclk]
      have hself : s.wired (.low .untyped a.bits a.out) s.miso = s := by rw [← hlow, wired_self hs]
      rw [hself] at hrun
      rw [if_neg Bool.false_ne_true]
      exact hrun
  · refine congrArg Host.Outcome.next ?_
    rw [typeEdges_idle hs hbits hk]
    rfl
  · obtain ⟨a', bits, draws, hk', hrun⟩ :=
      runEdges_ignored (own := fun _ _ => true) s.typeEdges hr hs hk (csRise_not_mem_typeEdges s)
    exact ⟨a', bits, draws, hk', congrArg Host.Outcome.next hrun⟩

/-! ### The frame clocked out (R175) -/

/-- The bits of `n` bytes from the `i`th byte of a frame on, zeros after its last. -/
def frameBits (frame : List Byte) (i n : Nat) : List Bool :=
  (List.range n).flatMap fun k => byteBits (frame.getD (i + k) 0#8)

theorem frameBits_succ (frame : List Byte) (i n : Nat) :
    frameBits frame i (n + 1) = byteBits (frame.getD i 0#8) ++ frameBits frame (i + 1) n := by
  rw [frameBits, List.range_succ_eq_map, List.flatMap_cons, List.flatMap_map]
  refine congrArg (_ ++ ·) (congrArg (List.flatMap · _) (funext fun k => ?_))
  rw [Nat.succ_eq_add_one, Nat.add_right_comm, Nat.add_assoc]

/-- A frame's bits from the `i`th byte on, with zeros after its last. -/
def paddedBits (frame : List Byte) (i zeros : Nat) : List Bool :=
  (frame.drop i).flatMap byteBits ++ List.replicate zeros false

theorem paddedBits_split (frame : List Byte) (i : Nat) {zeros : Nat} (h : 8 ≤ zeros) :
    ∃ left, zeros - 8 ≤ left ∧
      paddedBits frame i zeros = byteBits (frame.getD i 0#8) ++ paddedBits frame (i + 1) left := by
  by_cases hi : i < frame.length
  · refine ⟨zeros, Nat.sub_le _ _, ?_⟩
    rw [paddedBits, List.drop_eq_getElem_cons hi, List.flatMap_cons, List.append_assoc,
      List.getD_eq_getElem _ _ hi]
    rfl
  · refine ⟨zeros - 8, le_rfl, ?_⟩
    have hzero : frame.getD i 0#8 = 0#8 := List.getD_eq_default _ _ (by omega)
    have hbits : byteBits 0#8 = List.replicate 8 false := rfl
    rw [paddedBits, paddedBits, List.drop_of_length_le (by omega), List.drop_of_length_le (by omega), hzero, hbits,
      List.flatMap_nil, List.nil_append, List.nil_append, List.replicate_append_replicate, Nat.add_sub_cancel' h]

/-- Whole bytes of a frame, and bits of the next, are the frame's bits with zeros after them. -/
theorem frameBits_eq {t : Nat} (ht : t < 8) : ∀ (n i zeros : Nat) (frame : List Byte), 8 * n + 8 ≤ zeros →
    frameBits frame i n ++ (byteBits (frame.getD (i + n) 0#8)).take t = (paddedBits frame i zeros).take (8 * n + t)
  | 0, i, zeros, frame, h => by
    obtain ⟨left, -, hsplit⟩ := paddedBits_split frame i (by omega)
    rw [hsplit, Nat.mul_zero, Nat.zero_add, List.take_append_of_le_length (by rw [byteBits_length]; omega)]
    rfl
  | n + 1, i, zeros, frame, h => by
    obtain ⟨left, hleft, hsplit⟩ := paddedBits_split frame i (zeros := zeros) (by omega)
    have htake : (paddedBits frame i zeros).take (8 * (n + 1) + t) =
        byteBits (frame.getD i 0#8) ++ (paddedBits frame (i + 1) left).take (8 * n + t) := by
      rw [hsplit, show 8 * (n + 1) + t = (byteBits (frame.getD i 0#8)).length + (8 * n + t) by
        rw [byteBits_length]; omega, List.take_length_add_append]
    rw [htake, ← frameBits_eq ht n (i + 1) left frame (by omega), frameBits_succ, List.append_assoc,
      Nat.add_right_comm, Nat.add_assoc]

theorem paddedBits_take (frame : List Byte) (i : Nat) {k zeros : Nat} (h : k ≤ zeros) :
    (paddedBits frame i k).take k = (paddedBits frame i zeros).take k := by
  rw [paddedBits, paddedBits, List.take_append, List.take_append, List.take_replicate, List.take_replicate,
    Nat.min_eq_left (Nat.sub_le _ _), Nat.min_eq_left (by omega)]

/-- The bytes of a FETCH after its type byte: the frame's, from the next one on (R175). -/
theorem runEdges_fetch_bytes {selected : Option RespIx} {frame : List Byte} (rest : List SpiEdge) :
    ∀ (bytes : List Byte) (clocked : Nat) (s : State), s.resetn = true → s.selectedBytes selected = frame →
      s.session = some (.low (.fetch selected clocked) [] (frame.getD clocked 0#8)) →
      runEdges State.ownsFetch (bytes.flatMap byteEdges ++ rest) s = runEdges State.ownsFetch rest
        (s.wired (.low (.fetch selected (clocked + bytes.length)) [] (frame.getD (clocked + bytes.length) 0#8))
          (s.miso ++ frameBits frame clocked bytes.length))
  | [], clocked, s, _, _, hs => by
    show _ = runEdges State.ownsFetch rest
      (s.wired (.low (.fetch selected clocked) [] (frame.getD clocked 0#8)) (s.miso ++ []))
    rw [List.append_nil, wired_self hs]
    rfl
  | b :: bytes, clocked, s, hr, hframe, hs => by
    have hrun := runEdges_fetch_bytes (frame := frame) rest bytes (clocked + 1)
      (s.wired (.low (.fetch selected (clocked + 1)) [] (frame.getD (clocked + 1) 0#8))
        (s.miso ++ byteBits (frame.getD clocked 0#8))) hr hframe rfl
    rw [wired_wired, wired_miso, List.append_assoc, ← frameBits_succ, Nat.add_assoc, Nat.add_comm 1] at hrun
    rw [List.flatMap_cons, List.append_assoc, runEdges_fetch_byte b _ hr hs, hframe]
    exact hrun

theorem ownsFetch_csRise {t : State} {a : Session} {selected : Option RespIx} {clocked : Nat} (ha : t.session = some a)
    (hk : a.kind = .fetch selected clocked) : t.ownsFetch .csRise = true :=
  ownsFetch_partial selected clocked t a .csRise ha hk nofun

/-- CS's rising edge ends a session by its type. -/
theorem fetchEdges_end {s : State} {a : Session} {selected : Option RespIx} {clocked : Nat} (hr : s.resetn = true)
    (hs : s.session = some a) (hk : a.kind = .fetch selected clocked) :
    runEdges State.ownsFetch [.csRise] s =
      match selected with
      | none => { s with session := none }
      | some k => { s with session := none, bank := s.bank.release k clocked } := by
  rw [runEdges_cons _ (ownsFetch_csRise hs hk), edge_csRise hr hs]
  unfold State.csRises
  simp only [hk]
  cases selected <;> rfl

theorem fetchEdges_end_kind {s : State} {a b : Session} {m : List Bool} {selected : Option RespIx} {clocked : Nat}
    (hr : s.resetn = true) (ha : a.kind = .fetch selected clocked) (hb : b.kind = .fetch selected clocked) :
    runEdges State.ownsFetch [.csRise] (s.wired a m) = runEdges State.ownsFetch [.csRise] (s.wired b m) := by
  rw [fetchEdges_end (s := s.wired a m) hr rfl ha, fetchEdges_end (s := s.wired b m) hr rfl hb]
  cases selected <;> rfl

theorem selectedBytes_eq {s : State} {selected : Option RespIx} {frame : List Byte}
    (h : selected = none ∧ frame = emptyFrame ∨ ∃ k f,
      selected = some k ∧ s.bank.slots[k] = .filled f ∧ frame = f.bytes) : s.selectedBytes selected = frame := by
  rcases h with ⟨rfl, rfl⟩ | ⟨k, f, rfl, hf, rfl⟩
  · rfl
  · rw [State.selectedBytes]
    simp only [hf]

/-- The edges of a FETCH after its type byte, up to CS's rising edge. -/
theorem runEdges_fetch_session {s : State} {a : Session} {selected : Option RespIx} {clocked : Nat} {frame : List Byte}
    (bytes : List Byte) (tail : List Bool) (hr : s.resetn = true) (hs : s.session = some a)
    (hk : a.kind = .fetch selected clocked) (hhigh : a.sclk = true) (hbits : a.bits = [])
    (hframe : s.selectedBytes selected = frame) (htail : tail.length < 8) :
    runEdges State.ownsFetch (.sclkFall :: bytes.flatMap byteEdges ++ tail.flatMap bitEdges ++ [.csRise]) s =
      runEdges State.ownsFetch [.csRise]
        (s.wired (.low (.fetch selected (clocked + bytes.length)) tail (frame.getD (clocked + bytes.length) 0#8))
          (s.miso ++ (paddedBits frame clocked (8 * bytes.length + tail.length)).take
            (8 * bytes.length + tail.length))) := by
  have hown : s.ownsFetch .sclkFall = true := ownsFetch_partial selected clocked s a .sclkFall hs hk nofun
  have hfall : s.spiEdge .sclkFall = s.wired (.low (.fetch selected clocked) [] (frame.getD clocked 0#8)) s.miso := by
    rw [edge_fall hr hs hhigh, falls_fresh (by rw [hk]; nofun) hbits, hk, State.nextByte, hframe]
  have hbytes := runEdges_fetch_bytes (frame := frame) (tail.flatMap bitEdges ++ [.csRise]) bytes clocked
    (s.wired (.low (.fetch selected clocked) [] (frame.getD clocked 0#8)) s.miso) hr hframe rfl
  have htailBits := runEdges_bits (ownsFetch_partial selected (clocked + bytes.length)) nofun [.csRise] tail []
    (s.wired (.low (.fetch selected (clocked + bytes.length)) [] (frame.getD (clocked + bytes.length) 0#8))
      (s.miso ++ frameBits frame clocked bytes.length)) hr rfl (by rw [List.length_nil]; omega)
  rw [wired_wired, wired_miso, List.length_nil, List.drop_zero, List.append_assoc,
    frameBits_eq htail bytes.length clocked (8 * bytes.length + 8) frame le_rfl,
    ← paddedBits_take frame clocked (by omega)] at htailBits
  rw [List.append_assoc, List.cons_append, runEdges_cons _ hown, hfall]
  exact hbytes.trans htailBits

/-! ### The slot at the end (R176) -/

theorem responseFrame_length (f : ResponseFrame) : f.bytes.length = f.payload.length + 5 := by
  rw [ResponseFrame.bytes]
  simp

theorem release_whole {b : SlotBank} {k : RespIx} {f : ResponseFrame} {rest : List RespIx} {clocked : Nat}
    (hf : b.slots[k] = .filled f) (horder : b.order = k :: rest) (h : f.payload.length + 5 ≤ clocked) :
    b.release k clocked = { slots := b.slots.set k .empty, order := rest } := by
  rw [SlotBank.release]
  simp only [hf]
  rw [responseFrame_length, if_pos h, horder, List.erase_cons_head]

theorem release_cut {b : SlotBank} {k : RespIx} {f : ResponseFrame} {clocked : Nat}
    (hf : b.slots[k] = .filled f) (h : clocked < f.payload.length + 5) : b.release k clocked = b := by
  rw [SlotBank.release]
  simp only [hf]
  rw [responseFrame_length, if_neg (by omega)]

theorem ownsFetch_other {s : State} {a : Session} (hs : s.session = some a)
    (h : a.kind = .untyped ∨ ∃ bytes, a.kind = .command bytes) (e : SpiEdge) : s.ownsFetch e = false := by
  rw [State.ownsFetch, hs]
  rcases h with hk | ⟨bytes, hk⟩ <;> simp only [hk]

theorem ownsFetch_ignored (t : State) (a : Session) (e : SpiEdge) (ha : t.session = some a)
    (hk : a.kind = .ignored) : t.ownsFetch e = true := by
  rw [State.ownsFetch, ha]
  simp only [hk]

/-- Settles O39. -/
theorem fetchEndEmptiesSlotClockedWhole : Obligations.FetchEndEmptiesSlotClockedWhole := by
  unfold Obligations.FetchEndEmptiesSlotClockedWhole
  refine ⟨fun s a selected clocked frame bytes tail hr hs hk hhigh hbits hframe htail => ?_,
    fun s a clocked hr hs => ⟨fun k f rest hk hf horder => ⟨fun hlen => ?_, fun hlen => ?_⟩, fun hk => ?_⟩,
    fun s edges => ⟨fun hs => ?_, fun a hs hk => ?_⟩, fun s a bits hr hs hk hlow => ?_⟩
  · refine congrArg Host.Outcome.next ((runEdges_fetch_session bytes tail hr hs hk hhigh hbits
      (selectedBytes_eq hframe) htail).trans ?_)
    exact fetchEdges_end_kind (b := { a with kind := .fetch selected (clocked + bytes.length) }) hr rfl rfl
  · refine congrArg Host.Outcome.next ((fetchEdges_end hr hs hk).trans ?_)
    simp only [release_whole hf horder hlen]
  · refine congrArg Host.Outcome.next ((fetchEdges_end hr hs hk).trans ?_)
    simp only [release_cut hf hlen]
  · exact congrArg Host.Outcome.next (fetchEdges_end hr hs hk)
  · exact congrArg Host.Outcome.next (runEdges_not_own edges (ownsFetch_none hs))
  · exact congrArg Host.Outcome.next (runEdges_not_own edges (ownsFetch_other hs hk))
  · exact congrArg Host.Outcome.next (runEdges_ignored_session ownsFetch_ignored bits hr hs hk hlow)

end Sys2Proof.Machine
